-- ==== Sys2Proof/Word.lean ====
section
/-! DEFINITION. The word types of the block (R6: SEG_WIDTH = SEL_WIDTH = 8, VALUE_WIDTH = 16). -/

namespace Sys2Proof

/-- A whole byte: the contents of SEG or SEL, and a segment pattern (R6, R23, R24). -/
abbrev Byte := BitVec 8

/-- The `value` bus and the working value W (R6 VALUE_WIDTH, R18, R27). -/
abbrev Value := BitVec 16

end Sys2Proof
end

