-- ==== Sys2Proof/Syntax.lean ====
section
/-! DEFINITION. The syntax: one constructor for each of the 21 rows of the opcode table (R61), the three formats
of an encoded word (R47, R49, R50) and the stimulus-script lines (R58, R59). -/

namespace Sys2Proof

/-- The rows of `opcode_table.json`: three STIM commands, eight SEQ codes, ten LUT digits (R61). -/
inductive Instr
  /-- `RESET` (R95): `start` and `value` are ignored, so it has no operand. -/
  | reset
  /-- `REFRESH v` (R94). -/
  | refresh (value : Value)
  /-- `NOP` with `value` on the bus (R93). -/
  | nop (value : Value)
  /-- SEQ `000` (R78). -/
  | seqIdle
  /-- SEQ `001` (R79). -/
  | seqSelect
  /-- SEQ `010` (R80). -/
  | seqWrite
  /-- SEQ `011` (R81). -/
  | seqHold
  /-- SEQ `100` (R82). -/
  | seqAdvance
  /-- SEQ `101`, reserved (R106). -/
  | seqRsv5
  /-- SEQ `110`, reserved (R106). -/
  | seqRsv6
  /-- SEQ `111` (R110). -/
  | seqFault
  /-- LUT digits 0 to 9 (R62): the stand-alone lookup of one digit. -/
  | enc0
  | enc1
  | enc2
  | enc3
  | enc4
  | enc5
  | enc6
  | enc7
  | enc8
  | enc9
  deriving DecidableEq, Repr

/-- The three encoding formats (R57: each of one fixed length). -/
inductive Format
  /-- 18 bits (R47). -/
  | stim
  /-- 3 bits (R49). -/
  | seq
  /-- 4 bits (R50). -/
  | lut
  deriving DecidableEq, Repr

/-- An encoded word with the format it is read in: each format has an encoding space of its own. -/
inductive TableWord
  | stim (w : BitVec 18)
  | seq (w : BitVec 3)
  | lut (w : BitVec 4)
  deriving DecidableEq, Repr

/-- Why a word decodes to nothing. -/
inductive DecodeError
  /-- A LUT digit 10 to 15 "selects nothing" (R50, R56 (a)). -/
  | encRange (digit : BitVec 4)
  /-- No format holds these bits: a bit above the format's length is set (R57). -/
  | noFormat (nbits bits : Nat)
  deriving DecidableEq, Repr

/-- One line of a stimulus script (R58) or a pseudo-command (R59). Operands are the literals as written;
`WellFormed` checks their range (R60). -/
inductive ScriptLine
  | reset
  | refresh (value : Nat)
  /-- `NOP` with no operand: value bus unchanged. -/
  | nop
  /-- `NOP <v>`. -/
  | nopValue (value : Nat)
  /-- `WAIT <n>`. -/
  | wait (count : Nat)
  /-- `PASS <v>`. -/
  | pass (value : Nat)
  deriving DecidableEq, Repr

end Sys2Proof
end

