-- ==== Sys2Proof/WellFormed.lean ====
section
/-! DEFINITION. Well-formedness: the operand of a command is 16 bits by its type (R47), so every instruction is
well formed; a LUT digit is legal from 0 to 9 (R50); a script literal lies in 0..65535 (R60). -/

namespace Sys2Proof

/-- Every term is well formed: `value` has its 16 bits by type, and a `value` with bit 15 set is "legal to write" (R60). -/
def Instr.wellFormed : Instr → Bool
  | .reset => true
  | .refresh _ => true
  | .nop _ => true
  | .seqIdle => true
  | .seqSelect => true
  | .seqWrite => true
  | .seqHold => true
  | .seqAdvance => true
  | .seqRsv5 => true
  | .seqRsv6 => true
  | .seqFault => true
  | .enc0 => true
  | .enc1 => true
  | .enc2 => true
  | .enc3 => true
  | .enc4 => true
  | .enc5 => true
  | .enc6 => true
  | .enc7 => true
  | .enc8 => true
  | .enc9 => true

/-- "Values 0 to 9 are legal" (R50). -/
def lutDigitLegal (d : BitVec 4) : Bool := d.toNat ≤ 9

/-- A word is legal in its format: every STIM and SEQ word is (R48, R49: a reserved SEQ code is an operation,
ILLEGAL_STATE), a LUT word when its digit is. -/
def TableWord.wellFormed : TableWord → Bool
  | .stim _ => true
  | .seq _ => true
  | .lut d => lutDigitLegal d

/-- A literal "must lie in 0..65535" (R60). -/
def literalInRange (n : Nat) : Bool := n ≤ 65535

/-- The literals of a script line are in range (R60). The count of WAIT is held to the same range as a value, by R60's plain
"Literals in scripts ... must lie in 0..65535", though a count enters no 16-bit field (DESIGN CHOICE, log entry 18). -/
def ScriptLine.wellFormed : ScriptLine → Bool
  | .reset => true
  | .refresh v => literalInRange v
  | .nop => true
  | .nopValue v => literalInRange v
  | .wait n => literalInRange n
  | .pass v => literalInRange v

end Sys2Proof
end

