-- ==== Sys2Proof/Decode.lean ====
section
/-! DEFINITION. The decoders of the three formats (R46 to R50), the encoder, the opcode table as data (R61), and
`decodeTableWord`, which finds the format of a bare number. -/

namespace Sys2Proof

/-! ### Decoding -/

/-- Bit 17 of a STIM word (R47). -/
def stimRst (w : BitVec 18) : Bool := w.getLsbD 17

/-- Bit 16 of a STIM word (R47). -/
def stimStart (w : BitVec 18) : Bool := w.getLsbD 16

/-- Bits 15..0 of a STIM word (R47). -/
def stimValue (w : BitVec 18) : Value := w.extractLsb' 0 16

/-- R48: `rst = 1` is RESET whatever the other bits are; else `start` tells REFRESH from NOP.
Every STIM word decodes (R56). -/
def decodeStim (w : BitVec 18) : Instr :=
  if stimRst w then .reset
  else if stimStart w then .refresh (stimValue w)
  else .nop (stimValue w)

/-- R16, R49: the micro-operation a SEQ code selects. Three bits, so the last line is the code 7 alone. -/
def decodeSeq (w : BitVec 3) : Instr :=
  match w.toNat with
  | 0 => .seqIdle
  | 1 => .seqSelect
  | 2 => .seqWrite
  | 3 => .seqHold
  | 4 => .seqAdvance
  | 5 => .seqRsv5
  | 6 => .seqRsv6
  | _ => .seqFault

/-- R50: the lookup a LUT digit selects; 10 to 15 select nothing. -/
def decodeLut (d : BitVec 4) : Except DecodeError Instr :=
  match d.toNat with
  | 0 => .ok .enc0
  | 1 => .ok .enc1
  | 2 => .ok .enc2
  | 3 => .ok .enc3
  | 4 => .ok .enc4
  | 5 => .ok .enc5
  | 6 => .ok .enc6
  | 7 => .ok .enc7
  | 8 => .ok .enc8
  | 9 => .ok .enc9
  | _ => .error (.encRange d)

/-- The decoder over a word and its format: total, rejecting by name. -/
def decode : TableWord → Except DecodeError Instr
  | .stim w => .ok (decodeStim w)
  | .seq w => .ok (decodeSeq w)
  | .lut d => decodeLut d

/-! ### Encoding -/

/-- The STIM word `{rst, start, value}` (R47). -/
def stimWord (rst start : Bool) (value : Value) : BitVec 18 :=
  BitVec.ofBool rst ++ BitVec.ofBool start ++ value

/-- The word of each instruction, from the encodings of R47 to R50; RESET's ignored bits are written 0. -/
def encode : Instr → TableWord
  | .reset => .stim (stimWord true false 0)
  | .refresh v => .stim (stimWord false true v)
  | .nop v => .stim (stimWord false false v)
  | .seqIdle => .seq 0b000
  | .seqSelect => .seq 0b001
  | .seqWrite => .seq 0b010
  | .seqHold => .seq 0b011
  | .seqAdvance => .seq 0b100
  | .seqRsv5 => .seq 0b101
  | .seqRsv6 => .seq 0b110
  | .seqFault => .seq 0b111
  | .enc0 => .lut 0
  | .enc1 => .lut 1
  | .enc2 => .lut 2
  | .enc3 => .lut 3
  | .enc4 => .lut 4
  | .enc5 => .lut 5
  | .enc6 => .lut 6
  | .enc7 => .lut 7
  | .enc8 => .lut 8
  | .enc9 => .lut 9

/-! ### The opcode table as data -/

/-- A row of `opcode_table.json`: the format and the `match` and `mask` over the format's bits (R61). -/
structure TableRow where
  format : Format
  mask : Nat
  bits : Nat
  deriving DecidableEq, Repr

/-- The row of each instruction, copied from `opcode_table.json`. -/
def tableRow : Instr → TableRow
  | .reset => ⟨.stim, 0x20000, 0x20000⟩
  | .refresh _ => ⟨.stim, 0x30000, 0x10000⟩
  | .nop _ => ⟨.stim, 0x30000, 0x00000⟩
  | .seqIdle => ⟨.seq, 0x7, 0x0⟩
  | .seqSelect => ⟨.seq, 0x7, 0x1⟩
  | .seqWrite => ⟨.seq, 0x7, 0x2⟩
  | .seqHold => ⟨.seq, 0x7, 0x3⟩
  | .seqAdvance => ⟨.seq, 0x7, 0x4⟩
  | .seqRsv5 => ⟨.seq, 0x7, 0x5⟩
  | .seqRsv6 => ⟨.seq, 0x7, 0x6⟩
  | .seqFault => ⟨.seq, 0x7, 0x7⟩
  | .enc0 => ⟨.lut, 0xf, 0x0⟩
  | .enc1 => ⟨.lut, 0xf, 0x1⟩
  | .enc2 => ⟨.lut, 0xf, 0x2⟩
  | .enc3 => ⟨.lut, 0xf, 0x3⟩
  | .enc4 => ⟨.lut, 0xf, 0x4⟩
  | .enc5 => ⟨.lut, 0xf, 0x5⟩
  | .enc6 => ⟨.lut, 0xf, 0x6⟩
  | .enc7 => ⟨.lut, 0xf, 0x7⟩
  | .enc8 => ⟨.lut, 0xf, 0x8⟩
  | .enc9 => ⟨.lut, 0xf, 0x9⟩

/-- The format a word is read in. -/
def TableWord.format : TableWord → Format
  | .stim _ => .stim
  | .seq _ => .seq
  | .lut _ => .lut

/-- The bits of a word as a number, bit 0 least significant. -/
def TableWord.bits : TableWord → Nat
  | .stim w => w.toNat
  | .seq w => w.toNat
  | .lut w => w.toNat

/-- A word matches a row: the row's format, and the `match` bits under the `mask`. -/
def TableRow.matchesWord (row : TableRow) (w : TableWord) : Bool :=
  row.format = w.format && (w.bits &&& row.mask) = row.bits

/-! ### A bare number -/

/-- The word a bare number of `nbits` bits is taken for. The three formats have encoding spaces of their own
and a number carries no format, so the length decides: 18 bits or more is STIM, 3 is SEQ, 4 is LUT. Eight
bits (3 or 4 rounded up) fit SEQ and LUT alike: a number below 8 is taken for the SEQ code, since SEQ is a
cycle's operation and ENC is not one (R46), and 8 to 15 for the LUT digit (DESIGN CHOICE, log entry 7). Any other length
below 18, for which the spec has no format (R57), is read as 8 bits are (DESIGN CHOICE, log entry 7). -/
def tableWordOf (nbits w : Nat) : Except DecodeError TableWord :=
  if 18 ≤ nbits then
    if w < 2 ^ 18 then .ok (.stim (BitVec.ofNat 18 w)) else .error (.noFormat nbits w)
  else if nbits = 4 then
    if w < 16 then .ok (.lut (BitVec.ofNat 4 w)) else .error (.noFormat nbits w)
  else if w < 8 then .ok (.seq (BitVec.ofNat 3 w))
  else if nbits = 3 then .error (.noFormat nbits w)
  else if w < 16 then .ok (.lut (BitVec.ofNat 4 w))
  else .error (.noFormat nbits w)

/-- The instruction the decoder reads from a bare number, none where it refuses. -/
def decodeTableWord (nbits w : Nat) : Option Instr :=
  match tableWordOf nbits w with
  | .ok t =>
    match decode t with
    | .ok i => some i
    | .error _ => none
  | .error _ => none

end Sys2Proof
end

