-- ==== Sys2Proof/Config.lean ====
section
/-! DEFINITION. What is fixed when a block is built (R7, R36, 93 I3 and I13 to I16), and the values the spec leaves open. -/

namespace Sys2Proof

/-- How a set bit of SEL drives its pin (`SEL_PIN_POLARITY`, 90 C2, 93 I3). Outside the block: no rule reads it. -/
inductive PinPolarity
  | activeHigh
  | activeLow
  deriving DecidableEq, Repr

/-- Parameters on which no rule of the block depends (R7 `F_CLK`, R24 with 90 C2, R36).
They are carried because 93 (I3, I15, I16) says a model takes them as arguments. -/
structure Platform where
  /-- `F_CLK` in Hz: any positive number (R7). -/
  fClk : ℚ
  /-- `SEL_PIN_POLARITY` (90 C2). -/
  selPinPolarity : PinPolarity
  /-- `PORT_ADDR_SEG`: where a system maps SEG, if it does (R36). -/
  portAddrSeg : Option Nat
  /-- `PORT_ADDR_SEL`: where a system maps SEL, if it does (R36). -/
  portAddrSel : Option Nat
  fClk_pos : 0 < fClk
  deriving DecidableEq, Repr

/-- A legal configuration (R7). "There is no block with that configuration and a model builds none" (R108):
an illegal pair cannot be written down, because the three bounds are part of the data.
`Sys2Proof.Machine.buildConfig` is the construction that refuses the illegal ones. -/
structure Config where
  /-- `HOLD_CYCLES`, written `H`. -/
  holdCycles : Nat
  /-- `HT_WIDTH`, the width of HT in bits. -/
  htWidth : Nat
  platform : Platform
  width_pos : 1 ≤ htWidth
  hold_pos : 1 ≤ holdCycles
  hold_fits : holdCycles ≤ 2 ^ htWidth
  deriving DecidableEq, Repr

/-! The configuration of the block that `State.reset` describes is OPEN (R7, 91 "Do not assume a default"):
the constants below have no body, so nothing can be proved of the values (log entry 2). -/

opaque Config.openHold : Nat
opaque Config.openWidth : Nat
opaque Config.openClockNumerator : Nat
opaque Config.openClockDenominator : Nat
opaque Config.openPolarityLow : Bool
opaque Config.openPortAddrSeg : Option Nat
opaque Config.openPortAddrSel : Option Nat

/-- The open platform parameters of the block of `State.reset`. -/
def Config.openPlatform : Platform where
  fClk := ((Config.openClockNumerator : ℚ) + 1) / ((Config.openClockDenominator : ℚ) + 1)
  selPinPolarity := if Config.openPolarityLow then .activeLow else .activeHigh
  portAddrSeg := Config.openPortAddrSeg
  portAddrSel := Config.openPortAddrSel
  fClk_pos := by positivity

/-- The open configuration of the block of `State.reset`: some legal one, each legal pair `(H, HT_WIDTH)`
being the value of this expression for some values of the two constants. -/
def Config.asBuilt : Config where
  holdCycles := Config.openHold % 2 ^ (Config.openWidth + 1) + 1
  htWidth := Config.openWidth + 1
  platform := Config.openPlatform
  width_pos := Nat.le_add_left 1 _
  hold_pos := Nat.le_add_left 1 _
  hold_fits := Nat.mod_lt _ (Nat.two_pow_pos _)

/-! Free values: what the environment or an unreachable case may hold. No body, so a claim about the model
is a claim about every value of them. -/

/-- The stimulus word the host drives in a cycle for which no script line is given (R102: the end of a script
says nothing "of any cycle after the script's last line"), by cycle number (log entry 3). -/
opaque Config.hostStim : Nat → BitVec 18

/-- What the 3-bit NDIG holds after counting one more digit from 7, by cycle number: the spec states no
result there, and no reachable state has it (R32 (h); log entry 4). -/
opaque Config.ndigPastSeven : Nat → BitVec 3

end Sys2Proof
end

