-- ==== Sys2Proof/Machine/State.lean ====
section
/-! DEFINITION. The state of the block (R15 to R28), the reasons a step can stop, and the states after power-up and
after reset. -/

namespace Sys2Proof.Machine

/-- The sequencer state, STATE[2:0] (R16). The codes are `seqCode` in Operands.lean. -/
inductive SeqState
  | idle
  | select
  | write
  | hold
  | advance
  /-- Code `101`, reserved. -/
  | rsv5
  /-- Code `110`, reserved. -/
  | rsv6
  | fault
  deriving DecidableEq, Repr

/-- The fault code, FCODE[1:0] (R22, R104). The codes are `fcodeBits` in Flags.lean. -/
inductive FaultCode
  | none
  | negValue
  | illegalState
  /-- `11`, "never written". -/
  | reserved
  deriving DecidableEq, Repr

/-- The registers, all nine of them (R16 to R24; R26: no other exists). -/
structure Regs where
  /-- STATE[2:0] (R16). -/
  state : SeqState
  /-- SLOT[1:0] (R17). -/
  slot : BitVec 2
  /-- W[15:0] (R18). -/
  w : Value
  /-- HT[HT_WIDTH-1:0] (R19), as the number it holds: its width is a parameter, and it is only loaded,
  compared with 0 and counted down. -/
  ht : Nat
  /-- NDIG[2:0] (R20). -/
  ndig : BitVec 3
  /-- PEND (R21). -/
  pend : Bool
  /-- FCODE[1:0] (R22). -/
  fcode : FaultCode
  /-- SEG[7:0] (R23). -/
  seg : Byte
  /-- SEL[7:0] (R24). -/
  sel : Byte
  deriving DecidableEq, Repr

/-- The input levels a micro-operation reads (R27). `rst` is not held: a cycle with `rst = 1` is RESET, and a
micro-operation runs only with `rst = 0` (R46). -/
structure Inputs where
  start : Bool
  value : Value
  deriving DecidableEq, Repr

/-- The two ports of the write trace (R13). -/
inductive Port
  | seg
  | sel
  deriving DecidableEq, Repr

/-- An entry `(t, port, v)` of the write trace (R13). -/
structure Event where
  cycle : Nat
  port : Port
  byte : Byte
  deriving DecidableEq, Repr

/-- What one operation does to the registers, and the bytes it emits, in the order its rule writes them (R10, R11). -/
structure Effect where
  regs : Regs
  writes : List (Port × Byte)
  deriving DecidableEq, Repr

/-- What the outside world does next. -/
inductive Request
  /-- One clock cycle with this STIM word on the inputs (R47, R58: one line per cycle). -/
  | stim (w : BitVec 18)
  /-- One lookup by the stand-alone encoder (R62); not a cycle (R46). -/
  | lut (d : BitVec 4)
  /-- Power goes and returns (R117); not a cycle. -/
  | powerCycle
  deriving DecidableEq, Repr

/-- The whole machine. `cfg` and `regs` are the block; the other fields are the model's own view of what
stands round it (log entries 3, 5, 6, 9). -/
structure State where
  /-- The configuration the block was built with: no step changes it (R7, R120). -/
  cfg : Config
  /-- The registers. `none` is the spec's own state between power-up and the first reset edge, when "every
  register holds no value. A model must not give it one" (R33). -/
  regs : Option Regs
  /-- The levels on `start` and `value` in this cycle (R27). -/
  inputs : Inputs
  /-- What the host does next, one request after the other (R58). -/
  script : List Request
  /-- The number of this cycle (R12). -/
  cycle : Nat
  /-- The write trace so far, oldest entry first (R13). -/
  trace : List Event
  /-- The result the stand-alone encoder last gave (R62). -/
  encOut : Option Byte
  deriving DecidableEq, Repr

/-- Why the machine stops with a fault. (The block's own faults, NEG_VALUE and ILLEGAL_STATE, are no faults of
this type: they are the FAULT state, a next state; R109.) -/
inductive Fault
  /-- Raised by every operation of a cycle but RESET, and by reading an output, between power-up and the first
  reset edge: "a fault of the model" (R33, 93 I12 `stuck`). Safe: the machine stops. -/
  | noValueBeforeReset
  deriving DecidableEq, Repr

/-- Why the model gives no meaning. -/
inductive Refusal
  /-- An instruction with no meaning yet, by its mnemonic. Raised by no arm of `exec` now. Safe. -/
  | notModelled (mnemonic : String)
  /-- The stand-alone encoder on a digit 10 to 15: `refuse(EncRange)` (R62, R107). Raised when a lookup request
  holds such a digit. Safe: no byte is picked. -/
  | encRange
  /-- `HT_WIDTH < 1` (R108). Raised by `buildConfig`. Safe: no block is built. -/
  | configWidthZero
  /-- `HOLD_CYCLES < 1` (R108). Raised by `buildConfig`. Safe: no block is built. -/
  | configHoldZero
  /-- `HOLD_CYCLES > 2^HT_WIDTH` (R108). Raised by `buildConfig`. Safe: no block is built. -/
  | configHoldTooLong
  deriving DecidableEq, Repr

/-- A block of this configuration just powered up: the registers hold nothing (R33, R121), no cycle has run, and
the value bus is at 0 (R58). -/
def State.powerUp (c : Config) : State where
  cfg := c
  regs := none
  inputs := ⟨false, 0⟩
  script := []
  cycle := 0
  trace := []
  encOut := none

/-- A block of this configuration right after its first reset cycle, cycle 0 (R119, R121): every register at its
reset value, and the two entries that reset emits in the trace (R13). -/
def State.resetWith (c : Config) : State where
  cfg := c
  regs := some
    { state := .idle, slot := 0, w := 0x0000, ht := 0, ndig := 0, pend := false, fcode := .none,
      seg := 0xFF, sel := 0x00 }
  inputs := ⟨false, 0⟩
  script := []
  cycle := 1
  trace := [⟨0, .seg, 0xFF⟩, ⟨0, .sel, 0x00⟩]
  encOut := none

/-- The machine right after reset, its configuration open (R7; log entry 2). -/
def State.reset : State := State.resetWith Config.asBuilt

end Sys2Proof.Machine
end

