-- ==== Sys2Proof/Machine/Operands.lean ====
section
/-! DEFINITION. The fixed parameters of R6 as values, the codes of STATE (R16), and the operand forms: the sampled
value (R54), the slot (R55), the hold operand (R55), the digit-select byte (R53). -/

namespace Sys2Proof.Machine

/-- `NUM_DIGITS` (R6). -/
def numDigits : Nat := 4

/-- `LUT_ENTRIES` (R6). -/
def lutEntries : Nat := 10

/-- `SEL_START` (R6, R53): bit 3, the units position. -/
def selStart : Byte := 0x08

/-- SEL with no position selected (R24, R53). -/
def selNone : Byte := 0x00

/-- `BLANK` (R6, R52): all segments and the decimal point dark. -/
def blankByte : Byte := 0xFF

/-- The 3-bit code of a sequencer state (R16). -/
def seqCode : SeqState → BitVec 3
  | .idle => 0b000
  | .select => 0b001
  | .write => 0b010
  | .hold => 0b011
  | .advance => 0b100
  | .rsv5 => 0b101
  | .rsv6 => 0b110
  | .fault => 0b111

/-- The sequencer state of a 3-bit code (R16). Three bits, so the last line is the code 7 alone. -/
def seqStateOf (c : BitVec 3) : SeqState :=
  match c.toNat with
  | 0 => .idle
  | 1 => .select
  | 2 => .write
  | 3 => .hold
  | 4 => .advance
  | 5 => .rsv5
  | 6 => .rsv6
  | _ => .fault

/-- The micro-operation that STATE selects (R46, R49): its code, decoded. -/
def microInstr (st : SeqState) : Instr := decodeSeq (seqCode st)

/-- The states of a running pass, in which a `start` is held in PEND (R21, R83). -/
def inPass : SeqState → Bool
  | .idle => false
  | .select => true
  | .write => true
  | .hold => true
  | .advance => true
  | .rsv5 => false
  | .rsv6 => false
  | .fault => false

/-- A sampled value with bit 15 set is negative (R9, R54). -/
def negative (v : Value) : Bool := v.getLsbD 15

/-- The slot operand: `SLOT[1:0]` as a natural number (R55). -/
def slotIndex (slot : BitVec 2) : Nat := slot.toNat

/-- `(SLOT + 1) mod 4` (R17, R82). -/
def nextSlot (slot : BitVec 2) : BitVec 2 := BitVec.ofNat 2 ((slot.toNat + 1) % 4)

/-- The hold operand: `H - 1` reduced to `HT_WIDTH` bits (R55, R80). -/
def holdLoad (c : Config) : Nat := (c.holdCycles - 1) % 2 ^ c.htWidth

/-- "Each advance is a logical right shift by one" (R53, R82). -/
def shiftSel (sel : Byte) : Byte := sel >>> 1

/-- NDIG with one more digit counted (R20, R80). From 7 the sum does not fit the 3-bit register and the spec
states no result: a free value, by cycle (log entry 4). No reachable state has NDIG above 4 (R32 (h)). -/
def countDigit (t : Nat) (ndig : BitVec 3) : BitVec 3 :=
  if ndig = 7 then Config.ndigPastSeven t else BitVec.ofNat 3 (ndig.toNat + 1)

end Sys2Proof.Machine
end

