-- ==== Sys2Proof/Machine/Flags.lean ====
section
/-! DEFINITION. The status outputs (R28, R29): every flag is a function of the registers, never of the inputs. -/

namespace Sys2Proof.Machine

/-- `busy`: STATE is not IDLE, so 1 in FAULT too (R28). -/
def busyFlag (r : Regs) : Bool := r.state ≠ .idle

/-- `fault`: STATE is FAULT (R28). -/
def faultFlag (r : Regs) : Bool := r.state = .fault

/-- The two bits of FCODE (R22, R104). -/
def fcodeBits : FaultCode → BitVec 2
  | .none => 0b00
  | .negValue => 0b01
  | .illegalState => 0b10
  | .reserved => 0b11

/-- The output ports (R28). -/
structure Outputs where
  seg : Byte
  sel : Byte
  busy : Bool
  fault : Bool
  fcode : BitVec 2
  ndig : BitVec 3
  deriving DecidableEq, Repr

/-- The outputs of these registers (R28). -/
def outputsOf (r : Regs) : Outputs where
  seg := r.seg
  sel := r.sel
  busy := busyFlag r
  fault := faultFlag r
  fcode := fcodeBits r.fcode
  ndig := r.ndig

/-- Reading the outputs; before the first reset edge reading any output is a fault of the model (R33). -/
def readOutputs (s : State) : Except Fault Outputs :=
  match s.regs with
  | none => .error .noValueBeforeReset
  | some r => .ok (outputsOf r)

end Sys2Proof.Machine
end

