-- ==== Sys2Proof/Machine/Ops.lean ====
section
/-! DEFINITION. The shared operations: performing an operation's register transfer and its emits (R10, R11, R13),
ending a cycle (R12), reset (R119), fault entry (R109) and the PEND latch of a cycle (R83). -/

namespace Sys2Proof.Machine

/-- The trace entries of the bytes emitted in cycle `t` (R13). -/
def stampWrites (t : Nat) (ws : List (Port × Byte)) : List Event :=
  ws.map fun w => ⟨t, w.1, w.2⟩

/-- The edge: the registers take their new values and each emit becomes an entry of the trace (R10, R11, R13). -/
def commit (e : Effect) (s : State) : State :=
  { s with regs := some e.regs, trace := s.trace ++ stampWrites s.cycle e.writes }

/-- Performs an operation of the registers. Before the first reset edge there is nothing to operate on (R33). -/
def onRegs (f : Regs → Effect) (s : State) : Host.Outcome State Fault Refusal :=
  match s.regs with
  | none => .fault .noValueBeforeReset
  | some r => .next (commit (f r) s)

/-- The cycle is over and the next one begins (R12). -/
def endCycle (s : State) : State := { s with cycle := s.cycle + 1 }

/-- Ends the cycle of an operation that completed. -/
def thenEndCycle : Host.Outcome State Fault Refusal → Host.Outcome State Fault Refusal
  | .next s => .next (endCycle s)
  | .fault f => .fault f
  | .refused r => .refused r

/-- The registers' reset values (R119, R16 to R24). -/
def resetRegs : Regs where
  state := .idle
  slot := 0
  w := 0x0000
  ht := 0
  ndig := 0
  pend := false
  fcode := .none
  seg := 0xFF
  sel := 0x00

/-- RESET's assignments and emits (R119). -/
def resetEffect : Effect := ⟨resetRegs, [(.seg, 0xFF), (.sel, 0x00)]⟩

/-- TAKING A FAULT, `raise Fault(code)` (R109): STATE, FCODE, PEND, SEL and SEG are assigned; W, SLOT, HT and NDIG
keep their values. Nothing is saved for a return, because there is none: the only way out is reset (R111). -/
def faultEffect (code : FaultCode) (r : Regs) : Effect where
  regs := { r with state := .fault, fcode := code, pend := false, sel := selNone, seg := blankByte }
  writes := [(.sel, selNone), (.seg, blankByte)]

/-- R83: `if start = 1: PEND <- 1` in SELECT, WRITE, HOLD and ADVANCE (R21). -/
def latchRegs (inp : Inputs) (r : Regs) : Regs :=
  if inp.start && inPass r.state then { r with pend := true } else r

/-- The latch on the whole state. No micro-operation of a running pass reads PEND, so latching first is the
same as latching at the edge (R10, R83). -/
def latchStart (s : State) : State :=
  { s with regs := s.regs.map (latchRegs s.inputs) }

/-- The inputs of this cycle (R27). -/
def drive (start : Bool) (value : Value) (s : State) : State :=
  { s with inputs := ⟨start, value⟩ }

/-- Power goes and returns: no register holds a value until the next reset (R117, R121). -/
def losePower (s : State) : State := { s with regs := none }

end Sys2Proof.Machine
end

