-- ==== Sys2Proof/Machine/Encoder.lean ====
section
/-! DEFINITION. ENC, the segment encoder (R62 to R67), its lookup table, the segment layout (R51), and the ten rows
ENC_0 to ENC_9. -/

namespace Sys2Proof.Machine

/-- The lookup table, "10 entries, immutable" (R25, R63). -/
def segLut : Vector Byte 10 :=
  #v[0xC0, 0xF9, 0xA4, 0xB0, 0x99, 0x92, 0x82, 0xF8, 0x80, 0x90]

/-- ENC inside the block, where the operand is always a digit 0..9 (R67). -/
def encDigit (d : Fin 10) : Byte := segLut[d]

/-- ENC as a stand-alone function of four bits: no value for 10..15 (R62, R107). -/
def encLookup (d : BitVec 4) : Option Byte := segLut[d.toNat]?

/-- The eight segments (R51). -/
inductive Segment
  | a | b | c | d | e | f | g | dp
  deriving DecidableEq, Repr

/-- The bit of a pattern that drives a segment (R51). -/
def segmentBit : Segment → Nat
  | .a => 0
  | .b => 1
  | .c => 2
  | .d => 3
  | .e => 4
  | .f => 5
  | .g => 6
  | .dp => 7

/-- Active low: "0 = segment lit" (R51). -/
def segmentLit (p : Byte) (x : Segment) : Bool := !p.getLsbD (segmentBit x)

/-- The segments a pattern lights, in the order of R51. -/
def litSegments (p : Byte) : List Segment :=
  [Segment.a, .b, .c, .d, .e, .f, .g, .dp].filter (segmentLit p)

/-- A stand-alone lookup (R62): no register is written; the result is available at once (R65). It is not a
cycle's operation (R46), and the table is there without a reset (R25, R120). -/
def lookupDigit (d : BitVec 4) (s : State) : Host.Outcome State Fault Refusal :=
  match encLookup d with
  | some p => .next { s with encOut := some p }
  | none => .refused .encRange

/-- ENC_0 (R62). -/
def execEnc0 (s : State) : Host.Outcome State Fault Refusal := lookupDigit 0 s
/-- ENC_1 (R62). -/
def execEnc1 (s : State) : Host.Outcome State Fault Refusal := lookupDigit 1 s
/-- ENC_2 (R62). -/
def execEnc2 (s : State) : Host.Outcome State Fault Refusal := lookupDigit 2 s
/-- ENC_3 (R62). -/
def execEnc3 (s : State) : Host.Outcome State Fault Refusal := lookupDigit 3 s
/-- ENC_4 (R62). -/
def execEnc4 (s : State) : Host.Outcome State Fault Refusal := lookupDigit 4 s
/-- ENC_5 (R62). -/
def execEnc5 (s : State) : Host.Outcome State Fault Refusal := lookupDigit 5 s
/-- ENC_6 (R62). -/
def execEnc6 (s : State) : Host.Outcome State Fault Refusal := lookupDigit 6 s
/-- ENC_7 (R62). -/
def execEnc7 (s : State) : Host.Outcome State Fault Refusal := lookupDigit 7 s
/-- ENC_8 (R62). -/
def execEnc8 (s : State) : Host.Outcome State Fault Refusal := lookupDigit 8 s
/-- ENC_9 (R62). -/
def execEnc9 (s : State) : Host.Outcome State Fault Refusal := lookupDigit 9 s

end Sys2Proof.Machine
end

