-- ==== Sys2Proof/Machine/Extractor.lean ====
section
/-! DEFINITION. EXT, the digit extractor (R68), the digit sequence of a number (R69 to R71) and the slot pattern (R76). -/

namespace Sys2Proof.Machine

/-- The results of EXT_STEP (R68). The digit is a number below 10 by its type (R55). -/
structure ExtResult where
  valid : Bool
  digit : Fin 10
  next : Value
  deriving DecidableEq, Repr

/-- The digit `n mod 10`, 0..9 for every `n` (R55). -/
def lowDigit (n : Nat) : Fin 10 := ⟨n % 10, Nat.mod_lt n (by decide)⟩

/-- EXT_STEP (R68): W read as a natural number (R55). -/
def extStep (w : Value) : ExtResult where
  valid := w ≠ 0
  digit := lowDigit w.toNat
  next := BitVec.ofNat 16 (w.toNat / 10)

/-- PATTERN(W, i), the byte of slot `i` (R76). -/
def slotPattern (w : Value) (i : Nat) : Byte :=
  let e := extStep w
  if e.valid then
    if i = 3 ∧ e.digit = 0 then blankByte else encDigit e.digit
  else if i = 0 then encDigit 0
  else blankByte

/-- `digits` of R69 with a bound on the number of digits, so that the recursion is structural. -/
def digitsUpTo : Nat → Nat → List Nat
  | 0, _ => []
  | fuel + 1, v => if v = 0 then [] else v % 10 :: digitsUpTo fuel (v / 10)

/-- The digit sequence of R69, least significant first; a number has no more digits than its value. -/
def digits (v : Nat) : List Nat := digitsUpTo v v

/-- `d0*10^i + d1*10^(i+1) + ...` (R70). -/
def weightedSum (i : Nat) : List Nat → Nat
  | [] => 0
  | d :: ds => d * 10 ^ i + weightedSum (i + 1) ds

/-- `n(v)` (R71). -/
def digitCount (v : Nat) : Nat := (digits v).length

/-- The significant digits of `v` (R14): one for 0 (90 C8). -/
def significantDigits (v : Nat) : Nat := if v = 0 then 1 else digitCount v

end Sys2Proof.Machine
end

