-- ==== Sys2Proof/Machine/Multiplexer.lean ====
section
/-! DEFINITION. MUX: the micro-operations of the sequencer states (R78 to R82), the reserved codes (R106) and FAULT
(R110). Each is the register transfer of its own rule; a cycle also latches PEND (R83) and ends, which is
Commands.lean's. -/

namespace Sys2Proof.Machine

/-- IDLE (R78): wait, start a pass on the sampled value, or fault on a negative one (R105). -/
def idleEffect (inp : Inputs) (r : Regs) : Effect :=
  if inp.start || r.pend then
    if negative inp.value then faultEffect .negValue r
    else ⟨{ r with w := inp.value, slot := 0, ndig := 0, pend := false, state := .select }, []⟩
  else ⟨r, []⟩

/-- SELECT (R79). -/
def selectEffect (r : Regs) : Effect :=
  ⟨{ r with sel := selStart, state := .write }, [(.sel, selStart)]⟩

/-- WRITE (R80) in cycle `t`. -/
def writeEffect (c : Config) (t : Nat) (r : Regs) : Effect :=
  let e := extStep r.w
  let p := slotPattern r.w (slotIndex r.slot)
  ⟨{ r with
      seg := p
      w := e.next
      ndig := if e.valid then countDigit t r.ndig else r.ndig
      ht := holdLoad c
      state := .hold },
    [(.seg, p)]⟩

/-- HOLD (R81). -/
def holdEffect (r : Regs) : Effect :=
  if r.ht = 0 then ⟨{ r with state := .advance }, []⟩
  else ⟨{ r with ht := r.ht - 1 }, []⟩

/-- The state after ADVANCE: "last slot: the pass is over" (R82). -/
def afterSlot (slot : BitVec 2) : SeqState := if slotIndex slot = 3 then .idle else .write

/-- ADVANCE (R82). -/
def advanceEffect (r : Regs) : Effect :=
  ⟨{ r with
      sel := shiftSel r.sel
      slot := nextSlot r.slot
      state := afterSlot r.slot },
    [(.sel, shiftSel r.sel)]⟩

/-- SEQ_IDLE (R78). -/
def execSeqIdle (s : State) : Host.Outcome State Fault Refusal := onRegs (idleEffect s.inputs) s

/-- SEQ_SELECT (R79). -/
def execSeqSelect (s : State) : Host.Outcome State Fault Refusal := onRegs selectEffect s

/-- SEQ_WRITE (R80). -/
def execSeqWrite (s : State) : Host.Outcome State Fault Refusal := onRegs (writeEffect s.cfg s.cycle) s

/-- SEQ_HOLD (R81). -/
def execSeqHold (s : State) : Host.Outcome State Fault Refusal := onRegs holdEffect s

/-- SEQ_ADVANCE (R82). -/
def execSeqAdvance (s : State) : Host.Outcome State Fault Refusal := onRegs advanceEffect s

/-- SEQ_RSV5 (R106): the reserved code `101` takes ILLEGAL_STATE. -/
def execSeqRsv5 (s : State) : Host.Outcome State Fault Refusal := onRegs (faultEffect .illegalState) s

/-- SEQ_RSV6 (R106): the reserved code `110` takes ILLEGAL_STATE. -/
def execSeqRsv6 (s : State) : Host.Outcome State Fault Refusal := onRegs (faultEffect .illegalState) s

/-- SEQ_FAULT (R110): nothing changes. -/
def execSeqFault (s : State) : Host.Outcome State Fault Refusal := onRegs (fun r => ⟨r, []⟩) s

/-- The rule of the state (R46, R83): the micro-operation that STATE selects. -/
def microOp (s : State) : Host.Outcome State Fault Refusal :=
  match s.regs with
  | none => .fault .noValueBeforeReset
  | some r =>
    match r.state with
    | .idle => execSeqIdle s
    | .select => execSeqSelect s
    | .write => execSeqWrite s
    | .hold => execSeqHold s
    | .advance => execSeqAdvance s
    | .rsv5 => execSeqRsv5 s
    | .rsv6 => execSeqRsv6 s
    | .fault => execSeqFault s

end Sys2Proof.Machine
end

