-- ==== Sys2Proof/Machine/Commands.lean ====
section
/-! DEFINITION. The host's three commands (R93 to R95): each is one whole cycle (R83). -/

namespace Sys2Proof.Machine

/-- A cycle with `rst = 0` (R83): the inputs are driven, a `start` during a pass is latched, the rule of the
state runs, and the cycle ends. -/
def runCycle (start : Bool) (value : Value) (s : State) : Host.Outcome State Fault Refusal :=
  thenEndCycle (microOp (latchStart (drive start value s)))

/-- RESET (R95, R119): in any state, FAULT and power-up included, with everything else ignored (R112). -/
def execReset (s : State) : Host.Outcome State Fault Refusal := .next (endCycle (commit resetEffect s))

/-- REFRESH v (R94): a cycle with `start = 1`. -/
def execRefresh (value : Value) (s : State) : Host.Outcome State Fault Refusal := runCycle true value s

/-- NOP (R93): a cycle with no request. -/
def execNop (value : Value) (s : State) : Host.Outcome State Fault Refusal := runCycle false value s

end Sys2Proof.Machine
end

