-- ==== Sys2Proof/Machine/Dispatch.lean ====
section
/-! DEFINITION. One arm per instruction. -/

namespace Sys2Proof.Machine

def exec (i : Instr) (s : State) : Host.Outcome State Fault Refusal :=
  match i with
  | .reset => Sys2Proof.Machine.execReset s
  | .refresh value => Sys2Proof.Machine.execRefresh value s
  | .nop value => Sys2Proof.Machine.execNop value s
  | .seqIdle => Sys2Proof.Machine.execSeqIdle s
  | .seqSelect => Sys2Proof.Machine.execSeqSelect s
  | .seqWrite => Sys2Proof.Machine.execSeqWrite s
  | .seqHold => Sys2Proof.Machine.execSeqHold s
  | .seqAdvance => Sys2Proof.Machine.execSeqAdvance s
  | .seqRsv5 => Sys2Proof.Machine.execSeqRsv5 s
  | .seqRsv6 => Sys2Proof.Machine.execSeqRsv6 s
  | .seqFault => Sys2Proof.Machine.execSeqFault s
  | .enc0 => Sys2Proof.Machine.execEnc0 s
  | .enc1 => Sys2Proof.Machine.execEnc1 s
  | .enc2 => Sys2Proof.Machine.execEnc2 s
  | .enc3 => Sys2Proof.Machine.execEnc3 s
  | .enc4 => Sys2Proof.Machine.execEnc4 s
  | .enc5 => Sys2Proof.Machine.execEnc5 s
  | .enc6 => Sys2Proof.Machine.execEnc6 s
  | .enc7 => Sys2Proof.Machine.execEnc7 s
  | .enc8 => Sys2Proof.Machine.execEnc8 s
  | .enc9 => Sys2Proof.Machine.execEnc9 s

end Sys2Proof.Machine
end

