-- ==== Sys2Proof/Machine/Fetch.lean ====
section
/-! DEFINITION. Where a step finds what to run: the head of the host's script, or, where the script is at its end, a
cycle with inputs the host drives freely (R58, R102). -/

namespace Sys2Proof.Machine

/-- The next request and the script after it. Past the script's end the host drives some word, unknown to the
model (log entry 3). -/
def nextRequest (s : State) : Request × List Request :=
  match s.script with
  | [] => (.stim (Config.hostStim s.cycle), [])
  | q :: rest => (q, rest)

/-- The levels a STIM word puts on `start` and `value` (R47). In a cycle with `rst = 1` they are there too,
and ignored (R48). -/
def sampleInputs (w : BitVec 18) (s : State) : State :=
  drive (stimStart w) (stimValue w) s

/-- Takes a request off the script. -/
def dropRequest (s : State) : State := { s with script := (nextRequest s).2 }

/-- Puts an instruction where the next step finds it (log entry 8): a STIM word or a LUT digit at the head of
the script; a SEQ code in STATE, the register that selects the micro-operation (R46), with a NOP cycle at the head of the
script to run it. A number that no format holds changes nothing. -/
def placeWord (nbits w : Nat) (s : State) : State :=
  match tableWordOf nbits w with
  | .ok (.stim v) => { s with script := .stim v :: s.script }
  | .ok (.seq c) =>
    { s with
      regs := s.regs.map fun r => { r with state := seqStateOf c }
      script := .stim (stimWord false false s.inputs.value) :: s.script }
  | .ok (.lut d) => { s with script := .lut d :: s.script }
  | .error _ => s

end Sys2Proof.Machine
end

