-- ==== Sys2Proof/Machine/Step.lean ====
section
/-! DEFINITION. One step: the next request of the script is taken off, decoded and run. -/

namespace Sys2Proof.Machine

/-- One step. A STIM word is a whole cycle (R83). A lookup and a loss of power are no cycle. -/
def step (s : State) : Host.Outcome State Fault Refusal :=
  match (nextRequest s).1 with
  | .stim w => exec (decodeStim w) (sampleInputs w (dropRequest s))
  | .lut d =>
    match decodeLut d with
    | .ok i => exec i (dropRequest s)
    | .error _ => .refused .encRange
  | .powerCycle => .next (losePower (dropRequest s))

/-- The state with an instruction placed where the next step runs it (see `placeWord`). -/
def State.withFetchWord (s : State) (nbits w : Nat) : State := placeWord nbits w s

end Sys2Proof.Machine
end

