-- ==== Sys2Proof/Machine/Build.lean ====
section
/-! DEFINITION. Building a block: the configurations that are refused (R108, 93 I5). -/

namespace Sys2Proof.Machine

/-- Builds a block's configuration, or refuses it by name: `HT_WIDTH < 1`, `HOLD_CYCLES < 1` or
`HOLD_CYCLES > 2^HT_WIDTH` (R108). `HT_WIDTH` has the default 16 (R7). -/
def buildConfig (p : Platform) (h : Nat) (width : Nat := 16) : Except Refusal Config :=
  if hw : 1 ≤ width then
    if hh : 1 ≤ h then
      if hf : h ≤ 2 ^ width then .ok ⟨h, width, p, hw, hh, hf⟩
      else .error .configHoldTooLong
    else .error .configHoldZero
  else .error .configWidthZero

end Sys2Proof.Machine
end

