-- ==== Sys2Proof/Machine/Pass.lean ====
section
/-! DEFINITION. A whole pass, as the rules of the document state it: the bytes of its four slots in closed form (R77), its write trace
(R85), its length (R87, R130) and the informative rates (R131). The micro-operations do not use these. -/

namespace Sys2Proof.Machine

/-- `d_i = (v div 10^i) mod 10` (R77). -/
def digitAt (v i : Nat) : Fin 10 := lowDigit (v / 10 ^ i)

/-- The byte of slot `i` in a pass on `v`: the table of R77, range by range. -/
def passByte (v i : Nat) : Byte :=
  if v = 0 then (if i = 0 then 0xC0 else blankByte)
  else if v ≤ 9 then (if i = 0 then encDigit (digitAt v i) else blankByte)
  else if v ≤ 99 then (if i ≤ 1 then encDigit (digitAt v i) else blankByte)
  else if v ≤ 999 then (if i ≤ 2 then encDigit (digitAt v i) else blankByte)
  else if v ≤ 9999 then encDigit (digitAt v i)
  else if digitAt v 3 ≠ 0 then encDigit (digitAt v i)
  else (if i ≤ 2 then encDigit (digitAt v i) else blankByte)

/-- The four bytes of a pass, slot 0 first (R77). -/
def passBytes (v : Nat) : List Byte := [passByte v 0, passByte v 1, passByte v 2, passByte v 3]

/-- The nine entries of the write trace of a pass on `v` that starts in cycle `t0` (R85). -/
def passTrace (h t0 v : Nat) : List Event :=
  [ ⟨t0 + 1, .sel, 0x08⟩, ⟨t0 + 2, .seg, passByte v 0⟩,
    ⟨t0 + 3 + h, .sel, 0x04⟩, ⟨t0 + 4 + h, .seg, passByte v 1⟩,
    ⟨t0 + 5 + 2 * h, .sel, 0x02⟩, ⟨t0 + 6 + 2 * h, .seg, passByte v 2⟩,
    ⟨t0 + 7 + 3 * h, .sel, 0x01⟩, ⟨t0 + 8 + 3 * h, .seg, passByte v 3⟩,
    ⟨t0 + 9 + 4 * h, .sel, 0x00⟩ ]

/-- Cycles of one slot (R130). -/
def slotCycles (h : Nat) : Nat := h + 2

/-- Cycles in which one pass is busy (R87, R130). -/
def passBusyCycles (h : Nat) : Nat := 4 * h + 9

/-- Cycles from one pass start to the next, back to back (R87, R130). -/
def passPeriod (h : Nat) : Nat := 4 * h + 10

/-- Whole-display refreshes a second, back to back (R131). Informative: no rule reads it. -/
def refreshRate (c : Config) : ℚ := c.platform.fClk / passPeriod c.holdCycles

/-- The share of the time a position carries its own pattern (R131). Informative. -/
def ownPatternShare (c : Config) : ℚ := (c.holdCycles + 1) / passPeriod c.holdCycles

end Sys2Proof.Machine
end

