-- ==== Sys2Proof/Machine/Script.lean ====
section
/-! DEFINITION. The stimulus scripts: each line to its STIM words (R58, R59), and the lines read from text (R58, R60). -/

namespace Sys2Proof.Machine

/-- The STIM words of one line, and the value bus after it, given the bus before it and `H` (R58, R59). The expansion
of PASS writes no literal, so its `4H + 9` cycles have no bound (log entry 18). This function
does not ask whether a line is well formed: a literal above 65535, which R60 does not admit and `readLine` refuses, is reduced
modulo 2^16 (DESIGN CHOICE, log entry 19). -/
def assembleLine (h : Nat) (bus : Value) : ScriptLine → List (BitVec 18) × Value
  | .reset => ([stimWord true false bus], bus)
  | .refresh v => ([stimWord false true (BitVec.ofNat 16 v)], BitVec.ofNat 16 v)
  | .nop => ([stimWord false false bus], bus)
  | .nopValue v => ([stimWord false false (BitVec.ofNat 16 v)], BitVec.ofNat 16 v)
  | .wait n => (List.replicate n (stimWord false false bus), bus)
  | .pass v =>
    (stimWord false true (BitVec.ofNat 16 v) ::
      List.replicate (4 * h + 9) (stimWord false false (BitVec.ofNat 16 v)), BitVec.ofNat 16 v)

/-- The STIM words of a script from a given bus level: the bus is sticky (R58). -/
def assembleFrom (h : Nat) (bus : Value) : List ScriptLine → List (BitVec 18)
  | [] => []
  | l :: ls => (assembleLine h bus l).1 ++ assembleFrom h (assembleLine h bus l).2 ls

/-- "The value bus starts at 0 at the first line of a script" (R58). -/
def assemble (h : Nat) (ls : List ScriptLine) : List (BitVec 18) := assembleFrom h 0 ls

/-- A state whose host follows these words next. -/
def withWords (ws : List (BitVec 18)) (s : State) : State :=
  { s with script := ws.map Request.stim ++ s.script }

/-- Why a line of text is no script line. -/
inductive ScriptError
  | unknownCommand
  | badLiteral
  /-- The literal is outside 0..65535 (R60). -/
  | literalRange
  deriving DecidableEq, Repr

/-- "Comments begin with `;`" (R58). -/
def stripComment : List Char → List Char
  | [] => []
  | c :: cs => if c = ';' then [] else c :: stripComment cs

/-- The words of a line, cut at blanks; `acc` is the word being read. -/
def lineWords : List Char → List Char → List (List Char)
  | [], [] => []
  | [], acc => [acc]
  | c :: cs, acc =>
    if c = ' ' ∨ c = '\t' then
      match acc with
      | [] => lineWords cs []
      | _ :: _ => acc :: lineWords cs []
    else lineWords cs (acc ++ [c])

/-- A decimal or hexadecimal digit's value. -/
def digitValue (base : Nat) (c : Char) : Option Nat :=
  let n := c.toNat
  if 48 ≤ n ∧ n ≤ 57 then some (n - 48)
  else if base = 16 ∧ 65 ≤ n ∧ n ≤ 70 then some (n - 55)
  else if base = 16 ∧ 97 ≤ n ∧ n ≤ 102 then some (n - 87)
  else none

/-- The number some digits denote, most significant first, after `acc`. -/
def readDigits (base : Nat) : List Char → Nat → Option Nat
  | [], acc => some acc
  | c :: cs, acc =>
    match digitValue base c with
    | some d => readDigits base cs (acc * base + d)
    | none => none

/-- A literal, "decimal (`105`) or hexadecimal (`0x69`)", in 0..65535 (R60). -/
def readLiteral (cs : List Char) : Except ScriptError Nat :=
  let n :=
    match cs with
    | '0' :: 'x' :: d :: ds => readDigits 16 (d :: ds) 0
    | d :: ds => readDigits 10 (d :: ds) 0
    | [] => none
  match n with
  | some n => if literalInRange n then .ok n else .error .literalRange
  | none => .error .badLiteral

/-- The line a list of words is: `none` for an empty or comment line, which stands for no cycle (log entry 12). A written
count of WAIT above 65535 is refused as any other literal is (R60; DESIGN CHOICE, log entry 18). -/
def readWords : List (List Char) → Except ScriptError (Option ScriptLine)
  | [] => .ok none
  | [['R', 'E', 'S', 'E', 'T']] => .ok (some .reset)
  | [['N', 'O', 'P']] => .ok (some .nop)
  | [['N', 'O', 'P'], v] => (readLiteral v).map fun n => some (.nopValue n)
  | [['R', 'E', 'F', 'R', 'E', 'S', 'H'], v] => (readLiteral v).map fun n => some (.refresh n)
  | [['W', 'A', 'I', 'T'], v] => (readLiteral v).map fun n => some (.wait n)
  | [['P', 'A', 'S', 'S'], v] => (readLiteral v).map fun n => some (.pass n)
  | _ => .error .unknownCommand

/-- A line of text as a script line (R58 to R60). -/
def readLine (text : List Char) : Except ScriptError (Option ScriptLine) :=
  readWords (lineWords (stripComment text) [])

end Sys2Proof.Machine
end

