-- ==== Sys2Proof/Safety.lean ====
section
/-! DEFINITION. The terms the claims use: runs of several steps, a pass that starts, the invariants of a reachable
state (R32), and what an operation leaves alone. -/

namespace Sys2Proof.Machine

/-- `k` steps, stopping at the first fault or refusal. -/
def stepN : Nat → State → Host.Outcome State Fault Refusal
  | 0, s => .next s
  | k + 1, s =>
    match step s with
    | .next t => stepN k t
    | .fault f => .fault f
    | .refused r => .refused r

/-- The states that runs from power-up reach, whatever the configuration and the host's script. -/
inductive Reachable : State → Prop
  | powerUp (c : Config) (script : List Request) : Reachable { State.powerUp c with script := script }
  | step {s t : State} : Reachable s → step s = .next t → Reachable t

/-- Everything but the registers and the trace is as before: what a micro-operation leaves alone. -/
def SameSurroundings (s t : State) : Prop :=
  t.cfg = s.cfg ∧ t.inputs = s.inputs ∧ t.script = s.script ∧ t.cycle = s.cycle ∧ t.encOut = s.encOut

/-- The cycle of `s` starts a pass on `v` (R78), and the host's next words are `ws`, none a RESET, then `rest`. -/
def StartsPass (s : State) (r : Regs) (v : Nat) (ws : List (BitVec 18)) (rest : List Request) : Prop :=
  s.regs = some r ∧ r.state = .idle ∧ v ≤ 32767 ∧ (∀ w ∈ ws, stimRst w = false) ∧
    ∃ w0 : BitVec 18, s.script = .stim w0 :: (ws.map Request.stim ++ rest) ∧ stimRst w0 = false ∧
      (stimStart w0 = true ∨ r.pend = true) ∧ (stimValue w0).toNat = v

/-- The working value, the digit count and, once the slot is written, the byte shown, of a pass that sampled `v`
(R32 (f), R69, R71, R86). -/
def PassOn (v : Nat) (r : Regs) : Prop :=
  (r.state = .select → r.w.toNat = v) ∧
  (r.state = .write → r.w.toNat = v / 10 ^ r.slot.toNat ∧ r.ndig.toNat = min (digitCount v) r.slot.toNat) ∧
  (r.state = .hold ∨ r.state = .advance →
    r.w.toNat = v / 10 ^ (r.slot.toNat + 1) ∧ r.ndig.toNat = min (digitCount v) (r.slot.toNat + 1) ∧
      r.seg = passByte v r.slot.toNat)

/-- The invariants of a reachable state, by the letters of R32, with what makes them inductive. -/
structure RegsOk (c : Config) (r : Regs) : Prop where
  /-- (a) -/
  notReserved : r.state ≠ .rsv5 ∧ r.state ≠ .rsv6
  /-- (b) -/
  darkOutsideSlots : r.state = .idle ∨ r.state = .select → r.sel = 0x00
  /-- (c) -/
  oneHotInSlots : r.state = .write ∨ r.state = .hold ∨ r.state = .advance → r.sel = (0x08 : Byte) >>> r.slot.toNat
  /-- (d) -/
  darkInFault : r.state = .fault → r.sel = 0x00 ∧ r.seg = 0xFF
  /-- (e) -/
  freshInSelect : r.state = .select → r.slot = 0 ∧ r.ndig = 0 ∧ r.pend = false
  /-- (f), with R71 and R86 -/
  workingValue : ∃ v, v ≤ 32767 ∧ PassOn v r
  /-- (g) -/
  holdBound : r.state = .hold → r.ht ≤ c.holdCycles - 1
  /-- (h) -/
  digitBound : r.ndig.toNat ≤ 4
  /-- (h) -/
  digitBoundInWrite : r.state = .write → r.ndig.toNat ≤ r.slot.toNat
  /-- (i) -/
  segLegal : r.seg = 0xFF ∨ ∃ d : Fin 10, r.seg = encDigit d
  /-- HT fits its width (R19). -/
  holdFits : r.ht < 2 ^ c.htWidth
  /-- "`SLOT` returns to 0" (R82). -/
  slotHome : r.state = .idle → r.slot = 0
  /-- FCODE is set in FAULT alone, and from reset only by NEG_VALUE (R104, R106). -/
  codeOutsideFault : r.state ≠ .fault → r.fcode = .none
  /-- See `codeOutsideFault`. -/
  codeInFault : r.state = .fault → r.fcode = .negValue

/-- The registers' invariant on a state; before the first reset there are no registers to constrain (R33). -/
def Inv (s : State) : Prop := ∀ r, s.regs = some r → RegsOk s.cfg r

/-- The byte a port was last written with, by the trace. -/
def lastByte (p : Port) (es : List Event) : Option Byte :=
  ((es.filter fun e => e.port = p).getLast?).map Event.byte

/-- The write trace is in increasing order of cycles, is of cycles past, and tells SEG and SEL (R11, R13). -/
structure TraceOk (s : State) : Prop where
  past : ∀ e ∈ s.trace, e.cycle < s.cycle
  ordered : s.trace.Pairwise fun e f => e.cycle ≤ f.cycle
  tellsRegisters : ∀ r, s.regs = some r → lastByte .seg s.trace = some r.seg ∧ lastByte .sel s.trace = some r.sel

/-- The same block built with other platform parameters. -/
def withPlatform (p : Platform) (s : State) : State :=
  { s with cfg := { s.cfg with platform := p } }

/-- A function of the next state, carried over an outcome. -/
def mapNext (f : State → State) : Host.Outcome State Fault Refusal → Host.Outcome State Fault Refusal
  | .next s => .next (f s)
  | .fault e => .fault e
  | .refused e => .refused e

/-- A pass' entries moved to start in another cycle (R88). -/
def shiftEvents (t0 : Nat) (es : List Event) : List Event :=
  es.map fun e => { e with cycle := t0 + e.cycle }

end Sys2Proof.Machine
end

