-- ==== Sys2Proof/Certificates/Slice0/Obligations.lean ====
section
/-! DEFINITION. The statements for the provers. Each docstring names the rule it formalises. -/

open Sys2Proof Sys2Proof.Machine

/-! ### Encoding -/

/-- Words written out from the encodings of R47, R49 and R50 (the vectors CMD-1 to CMD-8 of 95, §2.5, among them)
decode to the instruction they stand for. -/
def Obligations.WrittenOutWordsDecode : Prop :=
  decode (.stim 0b10_0000_0000_0000_0000) = .ok .reset ∧
  decode (.stim 0b11_1111_1111_1111_1111) = .ok .reset ∧
  decode (.stim 0b11_0000_0000_0000_0000) = .ok .reset ∧
  decode (.stim 0b01_0000_0000_0110_1001) = .ok (.refresh 105) ∧
  decode (.stim 0b01_1000_0000_0000_0000) = .ok (.refresh 0x8000) ∧
  decode (.stim 0b00_0000_0000_0000_0000) = .ok (.nop 0) ∧
  decode (.stim 0b00_1111_1111_1111_1111) = .ok (.nop 0xFFFF) ∧
  decode (.stim 0b01_0111_1111_1111_1111) = .ok (.refresh 32767) ∧
  decode (.seq 0b010) = .ok .seqWrite ∧ decode (.seq 0b111) = .ok .seqFault ∧
  decode (.lut 0b0101) = .ok .enc5 ∧ decode (.lut 0b1001) = .ok .enc9

/-- R48: `rst` alone decides RESET, then `start` tells REFRESH from NOP, and `value` is carried by both; a NOP cycle
in which PEND starts a pass samples the `value` of that cycle. -/
def Obligations.StimDecodesByRstThenStart : Prop :=
  (∀ w : BitVec 18, w.getLsbD 17 = true → decode (.stim w) = .ok .reset) ∧
  (∀ w : BitVec 18, w.getLsbD 17 = false → w.getLsbD 16 = true →
    decode (.stim w) = .ok (.refresh (w.extractLsb' 0 16))) ∧
  (∀ w : BitVec 18, w.getLsbD 17 = false → w.getLsbD 16 = false →
    decode (.stim w) = .ok (.nop (w.extractLsb' 0 16))) ∧
  (∀ (s : State) (r : Regs) (v : Value), s.regs = some r → r.state = .idle → r.pend = true →
    v.toNat ≤ 32767 → ∃ t u, exec (.nop v) s = .next t ∧ t.regs = some u ∧ u.state = .select ∧ u.w = v)

/-- R50, R62 and R107: a digit 0 to 9 selects its lookup; 10 to 15 select nothing and are refused by name, in a step too.
(That a lookup is a step of its own, runs in every state, the one before the first reset among them, and keeps its result in
`encOut`, is the model's choice: log entry 6.) -/
def Obligations.LutDigitSelectsOrIsRefused : Prop :=
  (∀ d : BitVec 4, d.toNat ≤ 9 → ∃ i, decode (.lut d) = .ok i ∧
    ∀ s, ∃ p, encLookup d = some p ∧ exec i s = .next { s with encOut := some p }) ∧
  (∀ d : BitVec 4, 10 ≤ d.toNat → decode (.lut d) = .error (.encRange d) ∧
    ∀ s rest, s.script = .lut d :: rest → step s = .refused .encRange)

/-- Decoding undoes encoding, for every instruction and every operand value (R47 to R50). -/
def Obligations.DecodingUndoesEncoding : Prop :=
  ∀ i : Instr, i.wellFormed = true → decode (encode i) = .ok i

/-- Encoding undoes decoding: a word loses no bit, but for the bits RESET ignores (R48). -/
def Obligations.EncodingUndoesDecoding : Prop :=
  ∀ (t : TableWord) (i : Instr), decode t = .ok i → i ≠ .reset → encode i = t

/-- R61: the opcode table alone decodes. A word that decodes matches the row of its instruction and no other
row; a word that matches a row decodes to an instruction of that row. -/
def Obligations.TableAloneDecodes : Prop :=
  (∀ (t : TableWord) (i : Instr), decode t = .ok i → (tableRow i).matchesWord t = true ∧
    ∀ j, (tableRow j).matchesWord t = true → tableRow j = tableRow i) ∧
  (∀ (t : TableWord) (j : Instr), (tableRow j).matchesWord t = true →
    ∃ i, decode t = .ok i ∧ tableRow i = tableRow j)

/-! ### The step -/

/-- A step runs the decoded instruction (R46, R47, R62): the head of the script is taken off; a STIM word drives
`start` and `value`; a lookup drives nothing; at the script's end a word the host drives freely is run (log entry 3). The script of requests is the model's
own form of the stimulus (log entries 3 and 6). -/
def Obligations.StepRunsDecodedInstruction : Prop :=
  (∀ (s : State) (w : BitVec 18) (rest : List Request) (i : Instr),
    s.script = .stim w :: rest → decode (.stim w) = .ok i →
      step s = exec i { s with script := rest, inputs := ⟨w.getLsbD 16, w.extractLsb' 0 16⟩ }) ∧
  (∀ (s : State) (d : BitVec 4) (rest : List Request) (i : Instr),
    s.script = .lut d :: rest → decode (.lut d) = .ok i → step s = exec i { s with script := rest }) ∧
  (∀ (s : State) (i : Instr), s.script = [] → decode (.stim (Config.hostStim s.cycle)) = .ok i →
      step s = exec i { s with inputs := ⟨(Config.hostStim s.cycle).getLsbD 16, (Config.hostStim s.cycle).extractLsb' 0 16⟩ })

/-- R83, the whole cycle, with the priorities of R112: `rst` first; then the operation that STATE selects, with PEND
latched from `start` in SELECT, WRITE, HOLD and ADVANCE only; a register not assigned keeps its value. The cycle ends whatever ran. -/
def Obligations.CycleRunsTheStatesOperation : Prop :=
  ∀ (s : State) (r : Regs) (w : BitVec 18) (rest : List Request),
    s.regs = some r → s.script = .stim w :: rest →
    ∃ t, step s = .next { t with cycle := s.cycle + 1 } ∧ t.cycle = s.cycle ∧ t.script = rest ∧ t.cfg = s.cfg ∧
      (w.getLsbD 17 = true →
        exec .reset { s with script := rest, inputs := ⟨w.getLsbD 16, w.extractLsb' 0 16⟩ } = step s) ∧
      (w.getLsbD 17 = false →
        (r.state = .idle ∨ r.state = .fault ∨ r.state = .rsv5 ∨ r.state = .rsv6 →
          exec (microInstr r.state)
            { s with script := rest, inputs := ⟨w.getLsbD 16, w.extractLsb' 0 16⟩ } = .next t) ∧
        (r.state = .select ∨ r.state = .write ∨ r.state = .hold ∨ r.state = .advance →
          exec (microInstr r.state)
            { s with
              script := rest
              inputs := ⟨w.getLsbD 16, w.extractLsb' 0 16⟩
              regs := some { r with pend := r.pend || w.getLsbD 16 } } = .next t))

/-! ### Commands -/

/-- R119: RESET sets every register in any state, power-up and FAULT included,
emits SEG then SEL, and the display is dark; the parameters and all that is not the block's stay. (The order
of the two trace entries within the cycle is the model's reading of R119's text: log entry 16. That the held input levels stay is the
model's choice: log entry 5.) -/
def Obligations.ResetSetsEveryRegister : Prop :=
  ∀ s : State, ∃ t r, exec .reset s = .next t ∧ t.regs = some r ∧
    r.state = .idle ∧ r.slot = 0 ∧ r.w = 0x0000 ∧ r.ht = 0 ∧ r.ndig = 0 ∧ r.pend = false ∧ r.fcode = .none ∧
    r.seg = 0xFF ∧ r.sel = 0x00 ∧
    t.trace = s.trace ++ [⟨s.cycle, .seg, 0xFF⟩, ⟨s.cycle, .sel, 0x00⟩] ∧
    busyFlag r = false ∧ faultFlag r = false ∧
    t.cycle = s.cycle + 1 ∧ t.cfg = s.cfg ∧ t.inputs = s.inputs ∧ t.script = s.script ∧ t.encOut = s.encOut

/-- R93: a NOP cycle runs the state's own operation with `start = 0`; a pending request starts its pass on this
cycle's `value`; in FAULT nothing changes. It completes once the registers hold values. -/
def Obligations.NopRunsTheStatesOperation : Prop :=
  (∀ v : Value, encode (.nop v) = .stim (BitVec.ofNat 18 v.toNat)) ∧
  ∀ (s : State) (r : Regs) (v : Value), s.regs = some r →
    ∃ t u, exec (microInstr r.state) { s with inputs := ⟨false, v⟩ } = .next t ∧
      exec (.nop v) s = .next { t with cycle := s.cycle + 1 } ∧ t.regs = some u ∧
      (r.state = .idle → r.pend = true → v.toNat ≤ 32767 → u.state = .select ∧ u.w = v) ∧
      (r.state = .idle → r.pend = true → 32768 ≤ v.toNat → u.state = .fault ∧ u.fcode = .negValue) ∧
      (r.state = .fault → u = r ∧ t.trace = s.trace)

/-- R94: REFRESH starts a pass in IDLE (or faults on a negative value), sets PEND in a running pass which goes on as
with NOP, and does nothing in FAULT. It completes once the registers hold values. -/
def Obligations.RefreshRequestsAPass : Prop :=
  (∀ v : Value, encode (.refresh v) = .stim (BitVec.ofNat 18 (0x10000 + v.toNat))) ∧
  ∀ (s : State) (r : Regs) (v : Value), s.regs = some r →
    ∃ t u, exec (.refresh v) s = .next t ∧ t.regs = some u ∧ t.cycle = s.cycle + 1 ∧ t.cfg = s.cfg ∧
      t.script = s.script ∧ t.encOut = s.encOut ∧
      (r.state = .idle → v.toNat ≤ 32767 →
        u = { r with state := .select, w := v, slot := 0, ndig := 0, pend := false } ∧ t.trace = s.trace ∧
          busyFlag u = true) ∧
      (r.state = .idle → 32768 ≤ v.toNat → u.state = .fault ∧ u.fcode = .negValue) ∧
      (r.state = .select ∨ r.state = .write ∨ r.state = .hold ∨ r.state = .advance →
        ∃ t' u', exec (.nop v) s = .next t' ∧ t'.regs = some u' ∧ u = { u' with pend := true } ∧
          t.trace = t'.trace) ∧
      (r.state = .fault → u = r ∧ t.trace = s.trace)

/-- R33: at power-up no register holds a value; reading an output, and every cycle but a RESET, is a fault until the
first reset, which one RESET ends (R121). -/
def Obligations.NothingRunsBeforeFirstReset : Prop :=
  (∀ c : Config, (State.powerUp c).regs = none) ∧
  (∀ s : State, s.regs = none →
    readOutputs s = .error .noValueBeforeReset ∧
    (∀ w rest, s.script = .stim w :: rest → w.getLsbD 17 = false → step s = .fault .noValueBeforeReset) ∧
    (∀ w rest, s.script = .stim w :: rest → w.getLsbD 17 = true → ∃ t r, step s = .next t ∧ t.regs = some r) ∧
    (∀ v, exec (.nop v) s = .fault .noValueBeforeReset ∧ exec (.refresh v) s = .fault .noValueBeforeReset) ∧
    (∀ st, exec (microInstr st) s = .fault .noValueBeforeReset))

/-- The state the model calls reset is what one RESET makes of a block just powered up (R119, R121), for every
configuration, the open one of `State.reset` among them (its reset cycle is cycle 0, with the inputs low: log entries 5 and 9). -/
def Obligations.ResetOfPowerUpIsResetState : Prop :=
  (∀ c : Config, exec .reset (State.powerUp c) = .next (State.resetWith c)) ∧
  (∃ c : Config, State.reset = State.resetWith c)

/-! ### Micro-operations -/

/-- R78: IDLE waits, starts a pass on the sampled value, or raises NEG_VALUE by R109; `busy` is 1 once it does not
wait. (That the fault entry's two trace entries stand SEL then SEG is the model's reading of R109's text: log entry 16.) -/
def Obligations.IdleWaitsStartsOrFaults : Prop :=
  decode (.seq 0b000) = .ok .seqIdle ∧ ∀ (s : State) (r : Regs), s.regs = some r →
    ∃ t u, exec .seqIdle s = .next t ∧ t.regs = some u ∧ SameSurroundings s t ∧
      (s.inputs.start = false → r.pend = false → u = r ∧ t.trace = s.trace) ∧
      (s.inputs.start = true ∨ r.pend = true → s.inputs.value.getLsbD 15 = false →
        u = { r with w := s.inputs.value, slot := 0, ndig := 0, pend := false, state := .select } ∧
          t.trace = s.trace ∧ busyFlag u = true) ∧
      (s.inputs.start = true ∨ r.pend = true → s.inputs.value.getLsbD 15 = true →
        u = { r with state := .fault, fcode := .negValue, pend := false, sel := 0x00, seg := 0xFF } ∧
          t.trace = s.trace ++ [⟨s.cycle, .sel, 0x00⟩, ⟨s.cycle, .seg, 0xFF⟩])

/-- R79: SELECT sets SEL to `0x08`, emits it and goes to WRITE; nothing else changes. -/
def Obligations.SelectSetsStartingPosition : Prop :=
  decode (.seq 0b001) = .ok .seqSelect ∧ ∀ (s : State) (r : Regs), s.regs = some r →
    ∃ t, exec .seqSelect s = .next t ∧ SameSurroundings s t ∧
      t.regs = some { r with sel := 0x08, state := .write } ∧
      t.trace = s.trace ++ [⟨s.cycle, .sel, 0x08⟩]

/-- R76 and R80: WRITE writes the slot's pattern to SEG, divides W by 10, counts a digit when W is not 0, loads HT with
`H - 1` and goes to HOLD; SLOT, PEND, FCODE and SEL stay. (With NDIG at 7, which no reachable state has, the count has no stated
value: log entry 4; the clause on NDIG says nothing of it.)
(R68 gives the operand as W[15] = 0. With W[15] = 1, which no pass has, that W is read unsigned is the model's: log entry 13.) -/
def Obligations.WriteTakesOneDigit : Prop :=
  decode (.seq 0b010) = .ok .seqWrite ∧ ∀ (s : State) (r : Regs), s.regs = some r →
    ∃ t u p, exec .seqWrite s = .next t ∧ SameSurroundings s t ∧ t.regs = some u ∧
      p = (if r.w.toNat ≠ 0 then
            (if r.slot.toNat = 3 ∧ r.w.toNat % 10 = 0 then (0xFF : Byte) else encDigit (lowDigit r.w.toNat))
          else if r.slot.toNat = 0 then 0xC0 else 0xFF) ∧
      u.seg = p ∧ t.trace = s.trace ++ [⟨s.cycle, .seg, p⟩] ∧
      u.w.toNat = r.w.toNat / 10 ∧ u.ht = s.cfg.holdCycles - 1 ∧ u.state = .hold ∧
      (r.w.toNat ≠ 0 → r.ndig.toNat < 7 → u.ndig.toNat = r.ndig.toNat + 1) ∧
      (r.w.toNat = 0 → u.ndig = r.ndig) ∧
      u.slot = r.slot ∧ u.pend = r.pend ∧ u.fcode = r.fcode ∧ u.sel = r.sel

/-- R81, the operation: HOLD counts HT down and leaves at 0; nothing else changes and nothing is emitted.
(HT is a Nat: log entry 13.) -/
def Obligations.HoldCountsDown : Prop :=
  decode (.seq 0b011) = .ok .seqHold ∧ ∀ (s : State) (r : Regs), s.regs = some r →
    ∃ t, exec .seqHold s = .next t ∧ SameSurroundings s t ∧ t.trace = s.trace ∧
      (r.ht = 0 → t.regs = some { r with state := .advance }) ∧
      (∀ n, r.ht = n + 1 → t.regs = some { r with ht := n })

/-- R82: ADVANCE shifts SEL right by one, emits it, counts SLOT modulo 4 and goes to IDLE after slot 3, to WRITE before;
`busy` is 0 when the pass ends.
(That SEL is shifted when it is none of the five legal bytes too, which no reachable state has, is the model's: log entry 13.) -/
def Obligations.AdvanceShiftsOnePosition : Prop :=
  decode (.seq 0b100) = .ok .seqAdvance ∧ ∀ (s : State) (r : Regs), s.regs = some r →
    ∃ t u, exec .seqAdvance s = .next t ∧ SameSurroundings s t ∧ t.regs = some u ∧
      u.sel = r.sel >>> 1 ∧ t.trace = s.trace ++ [⟨s.cycle, .sel, r.sel >>> 1⟩] ∧
      u.slot.toNat = (r.slot.toNat + 1) % 4 ∧
      (r.slot.toNat = 3 → u.state = .idle ∧ busyFlag u = false) ∧ (r.slot.toNat ≠ 3 → u.state = .write) ∧
      u.w = r.w ∧ u.ht = r.ht ∧ u.ndig = r.ndig ∧ u.pend = r.pend ∧ u.fcode = r.fcode ∧ u.seg = r.seg

/-- R106 with R109: a reserved code takes ILLEGAL_STATE, with a `start` in that cycle ignored (PEND is 0 after it); and no
reachable state holds one. (The order SEL then SEG of the two trace entries is the
model's reading of R109's text: log entry 16.) -/
def Obligations.ReservedCodesTakeIllegalState : Prop :=
  decode (.seq 0b101) = .ok .seqRsv5 ∧ decode (.seq 0b110) = .ok .seqRsv6 ∧
  (∀ (s : State) (r : Regs), s.regs = some r → ∀ i, i = .seqRsv5 ∨ i = .seqRsv6 →
    ∃ t, exec i s = .next t ∧ SameSurroundings s t ∧
      t.regs = some { r with state := .fault, fcode := .illegalState, pend := false, sel := 0x00, seg := 0xFF } ∧
      t.trace = s.trace ++ [⟨s.cycle, .sel, 0x00⟩, ⟨s.cycle, .seg, 0xFF⟩]) ∧
  (∀ (s : State) (r : Regs) (v : Value), s.regs = some r → r.state = .rsv5 ∨ r.state = .rsv6 →
    ∃ t u, exec (.refresh v) s = .next t ∧ t.regs = some u ∧ u.state = .fault ∧ u.fcode = .illegalState ∧
      u.pend = false) ∧
  (∀ (s : State) (r : Regs), Reachable s → s.regs = some r → r.state ≠ .rsv5 ∧ r.state ≠ .rsv6)

/-- R110: FAULT changes nothing, ignores `start`, sets no PEND; `busy` and `fault` are 1. -/
def Obligations.FaultStateChangesNothing : Prop :=
  decode (.seq 0b111) = .ok .seqFault ∧
  (∀ (s : State) (r : Regs), s.regs = some r → exec .seqFault s = .next s) ∧
  (∀ (s : State) (r : Regs) (v : Value), s.regs = some r → r.state = .fault →
    busyFlag r = true ∧ faultFlag r = true ∧
    exec (.refresh v) s = .next { s with inputs := ⟨true, v⟩, cycle := s.cycle + 1 } ∧
    exec (.nop v) s = .next { s with inputs := ⟨false, v⟩, cycle := s.cycle + 1 })

/-- R105 and R109: a pass that would sample a negative value takes the fault instead, in NOP and REFRESH cycles
alike: STATE, FCODE, PEND, SEL and SEG are assigned, W, SLOT, HT and NDIG keep their values. (The order SEL then SEG of the
two trace entries is the model's reading of R109's text: log entry 16.) -/
def Obligations.NegativeValueTakesTheFault : Prop :=
  ∀ (s : State) (r : Regs) (v : Value), s.regs = some r → r.state = .idle → 32768 ≤ v.toNat →
    ∀ i, i = .refresh v ∨ (i = .nop v ∧ r.pend = true) →
      ∃ t u, exec i s = .next t ∧ t.regs = some u ∧
        u.state = .fault ∧ u.fcode = .negValue ∧ u.pend = false ∧ u.sel = 0x00 ∧ u.seg = 0xFF ∧
        u.w = r.w ∧ u.slot = r.slot ∧ u.ht = r.ht ∧ u.ndig = r.ndig ∧
        t.trace = s.trace ++ [⟨s.cycle, .sel, 0x00⟩, ⟨s.cycle, .seg, 0xFF⟩] ∧
        faultFlag u = true ∧ fcodeBits u.fcode = 0b01

/-- R62, R63 and R65: each of the ten lookups completes in every state, gives its table byte and writes no state of the block.
(That it is a step of its own, and the field its result is kept in, are the model's: log entry 6.) -/
def Obligations.EncRowsGiveTheirTableByte : Prop :=
  ∀ s : State,
    exec .enc0 s = .next { s with encOut := some 0xC0 } ∧ exec .enc1 s = .next { s with encOut := some 0xF9 } ∧
    exec .enc2 s = .next { s with encOut := some 0xA4 } ∧ exec .enc3 s = .next { s with encOut := some 0xB0 } ∧
    exec .enc4 s = .next { s with encOut := some 0x99 } ∧ exec .enc5 s = .next { s with encOut := some 0x92 } ∧
    exec .enc6 s = .next { s with encOut := some 0x82 } ∧ exec .enc7 s = .next { s with encOut := some 0xF8 } ∧
    exec .enc8 s = .next { s with encOut := some 0x80 } ∧ exec .enc9 s = .next { s with encOut := some 0x90 }

/-! ### Outputs, PEND and the value bus -/

/-- R28: each output is a function of the registers only, never of the inputs of the same cycle.
(That FCODE 11, which is never written, reads as 11 is the model's: log entry 16.) -/
def Obligations.OutputsReadTheRegisters : Prop :=
  ∀ (s : State) (r : Regs) (inp : Inputs), s.regs = some r →
    ∃ o, readOutputs s = .ok o ∧ readOutputs { s with inputs := inp } = .ok o ∧
      o.seg = r.seg ∧ o.sel = r.sel ∧ (o.busy = true ↔ r.state ≠ .idle) ∧ (o.fault = true ↔ r.state = .fault) ∧
      o.ndig = r.ndig ∧
      (r.fcode = .none → o.fcode = 0b00) ∧ (r.fcode = .negValue → o.fcode = 0b01) ∧
      (r.fcode = .illegalState → o.fcode = 0b10) ∧ (r.fcode = .reserved → o.fcode = 0b11)

/-- R21: PEND is set by a `start` in SELECT, WRITE, HOLD or ADVANCE, cleared when a pass starts and on fault entry,
and by reset; else it keeps its value. -/
def Obligations.PendIsSetAndClearedByRule : Prop :=
  ∀ (s t : State) (r u : Regs) (w : BitVec 18) (rest : List Request),
    s.regs = some r → s.script = .stim w :: rest → step s = .next t → t.regs = some u →
      (w.getLsbD 17 = true → u.pend = false) ∧
      (w.getLsbD 17 = false →
        (r.state = .select ∨ r.state = .write ∨ r.state = .hold ∨ r.state = .advance →
          u.pend = (r.pend || w.getLsbD 16)) ∧
        (r.state = .idle ∨ r.state = .rsv5 ∨ r.state = .rsv6 → u.pend = false) ∧
        (r.state = .fault → u.pend = r.pend))

/-- R39, R44, R125: the level on `value` is read in no cycle but the IDLE cycle that starts a pass. -/
def Obligations.ValueIsReadOnlyAtPassStart : Prop :=
  ∀ (s : State) (r : Regs) (v v' : Value), s.regs = some r →
    (r.state ≠ .idle → ∀ b : Bool, ∃ t, exec (if b then .refresh v else .nop v) s = .next t ∧
      exec (if b then .refresh v' else .nop v') s = .next { t with inputs := ⟨b, v'⟩ }) ∧
    (r.state = .idle → r.pend = false → ∃ t, exec (.nop v) s = .next t ∧
      exec (.nop v') s = .next { t with inputs := ⟨false, v'⟩ })

/-- R111: reset leaves FAULT and clears FCODE, and there is no other way: a step that runs no RESET, and during which power stays, leaves
every register and the trace as they are. -/
def Obligations.OnlyResetLeavesFault : Prop :=
  (∀ s : State, ∃ t u, exec .reset s = .next t ∧ t.regs = some u ∧ u.state = .idle ∧ u.fcode = .none) ∧
  ∀ (s t : State) (r : Regs), s.regs = some r → r.state = .fault → step s = .next t →
    (∀ w, (nextRequest s).1 = .stim w → w.getLsbD 17 = false) → (nextRequest s).1 ≠ .powerCycle →
      t.regs = some r ∧ t.trace = s.trace

/-! ### Invariants -/

/-- R32 holds right after reset, whatever the configuration. -/
def Obligations.ResetStateMeetsInvariant : Prop :=
  (∀ c : Config, Inv (State.resetWith c)) ∧ Inv State.reset

/-- R32, with what makes it inductive (log entry 10): every step keeps it, whatever the request. -/
def Obligations.StepKeepsInvariant : Prop :=
  ∀ s t : State, Inv s → step s = .next t → Inv t

/-- R32: every state a run from power-up reaches meets the invariant. -/
def Obligations.ReachableStatesMeetInvariant : Prop :=
  ∀ (s : State) (r : Regs), Reachable s → s.regs = some r → RegsOk s.cfg r

/-- R11 and R13 right after reset: the trace is of cycles past, in order, and tells SEG and SEL. -/
def Obligations.ResetStateMeetsTraceInvariant : Prop :=
  ∀ c : Config, TraceOk (State.resetWith c)

/-- R11 and R13: every step keeps the trace in order, of cycles past, and telling SEG and SEL. (The trace is a field of the
model's state: log entry 9.)
(A loss of power keeps the trace: log entry 14.) -/
def Obligations.StepKeepsTraceInvariant : Prop :=
  ∀ s t : State, TraceOk s → step s = .next t → TraceOk t

/-- R43: a cycle of a running pass emits at most one byte, SEL in SELECT and ADVANCE, SEG in WRITE; reset and fault entry
emit both ports once. The trace is only added to. (R43 has both take effect at the same edge; that the two entries of one cycle
stand in the order of the emits in the text of R119, SEG then SEL, and of R109, SEL then SEG, is the model's: log entry 16.) -/
def Obligations.OneWritePerCycleOfAPass : Prop :=
  ∀ (s t : State) (r : Regs) (w : BitVec 18) (rest : List Request),
    s.regs = some r → s.script = .stim w :: rest → step s = .next t →
      ∃ es, t.trace = s.trace ++ es ∧ (∀ e ∈ es, e.cycle = s.cycle) ∧
        (w.getLsbD 17 = true → es.map Event.port = [.seg, .sel]) ∧
        (w.getLsbD 17 = false →
          (r.state = .select ∨ r.state = .advance → es.map Event.port = [.sel]) ∧
          (r.state = .write → es.map Event.port = [.seg]) ∧
          (r.state = .hold ∨ r.state = .fault → es = []) ∧
          (r.state = .idle → es = [] ∨ (es.map Event.port = [.sel, .seg] ∧ ∃ u, t.regs = some u ∧ u.state = .fault)) ∧
          (r.state = .rsv5 ∨ r.state = .rsv6 → es.map Event.port = [.sel, .seg]))

/-- R120: no step changes the parameters, and so no reset does. -/
def Obligations.NoStepChangesTheParameters : Prop :=
  ∀ s t : State, step s = .next t → t.cfg = s.cfg

/-- R7 and R36: no rule depends on `F_CLK`, `SEL_PIN_POLARITY` or a port address: a step commutes with changing them. -/
def Obligations.StepIgnoresPlatformParameters : Prop :=
  ∀ (p : Platform) (s : State), step (withPlatform p s) = mapNext (withPlatform p) (step s)

/-- R66: no byte the block ever holds in SEG lights the decimal point, nor does a table entry. -/
def Obligations.DecimalPointIsNeverLit : Prop :=
  (∀ d : Fin 10, (encDigit d).getLsbD 7 = true) ∧
  (∀ (s : State) (r : Regs), Reachable s → s.regs = some r → segmentLit r.seg .dp = false)

/-! ### A whole pass -/

/-- R85: a pass that starts on `v` emits exactly its nine entries, for every `H` and whatever the host drives but
reset.
(For v from 10000 on, the bytes are those of R77 and R91: log entry 15.) -/
def Obligations.PassWritesNineEntries : Prop :=
  ∀ (s : State) (r : Regs) (v : Nat) (ws : List (BitVec 18)) (rest : List Request),
    StartsPass s r v ws rest → ws.length = 4 * s.cfg.holdCycles + 9 →
      ∃ t, stepN (4 * s.cfg.holdCycles + 10) s = .next t ∧
        t.trace = s.trace ++ passTrace s.cfg.holdCycles s.cycle v

/-- R85, R32 (f) and R124: slot `i` has its WRITE in cycle `t0 + 2 + i*(H+2)`, where W is `v div 10^i`, SEL already
selects position `i+1` and SEG still holds the byte of the slot before.
(For v from 10000 on, the bytes are those of R77 and R91: log entry 15.) -/
def Obligations.SlotsWriteAtTheirCycles : Prop :=
  ∀ (s : State) (r : Regs) (v : Nat) (ws : List (BitVec 18)) (rest : List Request),
    StartsPass s r v ws rest → ws.length = 4 * s.cfg.holdCycles + 9 → ∀ i, i < 4 →
      ∃ t u, stepN (2 + i * (s.cfg.holdCycles + 2)) s = .next t ∧ t.regs = some u ∧
        t.cycle = s.cycle + 2 + i * (s.cfg.holdCycles + 2) ∧
        u.state = .write ∧ u.slot.toNat = i ∧ u.w.toNat = v / 10 ^ i ∧ u.sel = (0x08 : Byte) >>> i ∧
        u.seg = (if i = 0 then r.seg else passByte v (i - 1))

/-- R86: position `i+1` is selected and carries its own pattern in the `H + 1` cycles after its WRITE: `H` of
HOLD, then the one of ADVANCE.
(For v from 10000 on, the bytes are those of R77 and R91: log entry 15.) -/
def Obligations.PositionShowsItsPattern : Prop :=
  ∀ (s : State) (r : Regs) (v : Nat) (ws : List (BitVec 18)) (rest : List Request),
    StartsPass s r v ws rest → ws.length = 4 * s.cfg.holdCycles + 9 → ∀ i, i < 4 → ∀ j, j ≤ s.cfg.holdCycles →
      ∃ t u, stepN (3 + i * (s.cfg.holdCycles + 2) + j) s = .next t ∧ t.regs = some u ∧
        u.sel = (0x08 : Byte) >>> i ∧ u.seg = passByte v i ∧
        (j < s.cfg.holdCycles → u.state = .hold) ∧ (j = s.cfg.holdCycles → u.state = .advance)

/-- R87: the pass is busy for exactly the `4H + 9` cycles after its start, and IDLE again in the next. -/
def Obligations.PassIsBusyFor4HPlus9Cycles : Prop :=
  ∀ (s : State) (r : Regs) (v : Nat) (ws : List (BitVec 18)) (rest : List Request),
    StartsPass s r v ws rest → ws.length = 4 * s.cfg.holdCycles + 9 →
      (∀ k, 1 ≤ k → k ≤ 4 * s.cfg.holdCycles + 9 →
        ∃ t u, stepN k s = .next t ∧ t.regs = some u ∧ busyFlag u = true ∧ faultFlag u = false) ∧
      (∃ t u, stepN (4 * s.cfg.holdCycles + 10) s = .next t ∧ t.regs = some u ∧ u.state = .idle ∧
        t.cycle = s.cycle + 4 * s.cfg.holdCycles + 10 ∧ t.script = rest)

/-- R71 and R72: the count of digits by range; after a pass on `v` NDIG is `min (n v) 4` and W is `v div 10000`, the rest of
the registers as the rules leave them, PEND telling whether any `start` came during the pass (R126).
(For v from 10000 on, the bytes are those of R77 and R91: log entry 15.) -/
def Obligations.PassLeavesDigitCountAndResidue : Prop :=
  (digitCount 0 = 0 ∧ (∀ v, 1 ≤ v → v ≤ 9 → digitCount v = 1) ∧ (∀ v, 10 ≤ v → v ≤ 99 → digitCount v = 2) ∧
    (∀ v, 100 ≤ v → v ≤ 999 → digitCount v = 3) ∧ (∀ v, 1000 ≤ v → v ≤ 9999 → digitCount v = 4) ∧
    (∀ v, 10000 ≤ v → v ≤ 32767 → digitCount v = 5)) ∧
  ∀ (s : State) (r : Regs) (v : Nat) (ws : List (BitVec 18)) (rest : List Request),
    StartsPass s r v ws rest → ws.length = 4 * s.cfg.holdCycles + 9 →
      ∃ t u, stepN (4 * s.cfg.holdCycles + 10) s = .next t ∧ t.regs = some u ∧
        u.ndig.toNat = min (digitCount v) 4 ∧ u.w.toNat = v / 10000 ∧ u.state = .idle ∧ u.slot = 0 ∧ u.ht = 0 ∧
        u.pend = ws.any stimStart ∧ u.fcode = r.fcode ∧ u.seg = passByte v 3 ∧ u.sel = 0x00

/-- R88: two passes on the same value, at the same `H`, emit the same bytes in the same relative cycles, whatever the
states they start from. -/
def Obligations.PassIsIdempotent : Prop :=
  ∀ (s s' : State) (r r' : Regs) (v : Nat) (ws ws' : List (BitVec 18)) (rest rest' : List Request),
    s'.cfg.holdCycles = s.cfg.holdCycles →
    StartsPass s r v ws rest → ws.length = 4 * s.cfg.holdCycles + 9 →
    StartsPass s' r' v ws' rest' → ws'.length = 4 * s.cfg.holdCycles + 9 →
      ∃ t t' es, stepN (4 * s.cfg.holdCycles + 10) s = .next t ∧ stepN (4 * s.cfg.holdCycles + 10) s' = .next t' ∧
        t.trace = s.trace ++ shiftEvents s.cycle es ∧ t'.trace = s'.trace ++ shiftEvents s'.cycle es ∧ es.length = 9

/-- R126 and R127: any number of `start`s during one pass, its last cycle included, make exactly one later pass,
which starts `4H + 10` cycles after the first on the `value` of the IDLE cycle that serves it (R87, R125).
(For v from 10000 on, the bytes are those of R77 and R91: log entry 15.) -/
def Obligations.RequestsOfAPassMergeIntoOne : Prop :=
  ∀ (s : State) (r : Regs) (v v' : Nat) (ws ws' : List (BitVec 18)) (w1 : BitVec 18) (rest : List Request),
    StartsPass s r v ws (.stim w1 :: (ws'.map Request.stim ++ rest)) → ws.length = 4 * s.cfg.holdCycles + 9 →
    ws.any stimStart = true → stimRst w1 = false → (stimValue w1).toNat = v' → v' ≤ 32767 →
    ws'.length = 4 * s.cfg.holdCycles + 9 → (∀ w ∈ ws', stimRst w = false ∧ stimStart w = false) →
      ∃ t u, stepN (8 * s.cfg.holdCycles + 20) s = .next t ∧ t.regs = some u ∧ u.state = .idle ∧ u.pend = false ∧
        t.trace = s.trace ++ passTrace s.cfg.holdCycles s.cycle v ++
          passTrace s.cfg.holdCycles (s.cycle + 4 * s.cfg.holdCycles + 10) v'

/-- R128, and the cycle count of R81: from WRITE the block is in HOLD for exactly `H` cycles, HT going from `H - 1` to 0, then in
ADVANCE; no input but `rst` ends it early. -/
def Obligations.HoldLastsExactlyH : Prop :=
  ∀ (s : State) (r : Regs) (ws : List (BitVec 18)) (rest : List Request),
    s.regs = some r → r.state = .write → s.script = ws.map Request.stim ++ rest →
    (∀ w ∈ ws, stimRst w = false) → ws.length = s.cfg.holdCycles + 1 →
      (∀ k, 1 ≤ k → k ≤ s.cfg.holdCycles →
        ∃ t u, stepN k s = .next t ∧ t.regs = some u ∧ u.state = .hold ∧ u.ht = s.cfg.holdCycles - k) ∧
      (∃ t u, stepN (s.cfg.holdCycles + 1) s = .next t ∧ t.regs = some u ∧ u.state = .advance)

/-! ### Digits and patterns -/

/-- R68: EXT_STEP on every W, its operands with W[15] = 0 among them; exhausted it stays exhausted.
(With W[15] = 1, which no pass has, W is read as an unsigned number by R55, which is the model's reading: log entry 13.) -/
def Obligations.ExtractorDividesByTen : Prop :=
  ∀ w : Value, ((extStep w).valid = true ↔ w.toNat ≠ 0) ∧ (extStep w).digit.val = w.toNat % 10 ∧
    (extStep w).next.toNat = w.toNat / 10 ∧ (w = 0 → (extStep w).digit = 0 ∧ (extStep w).next = 0)

/-- R69: the digit sequence follows its two equations, and slot `i` of a pass yields a digit exactly when
`i < length (digits v)`, the digit being `(v div 10^i) mod 10`. -/
def Obligations.DigitsFollowTheirEquations : Prop :=
  digits 0 = [] ∧ (∀ v, 1 ≤ v → digits v = v % 10 :: digits (v / 10)) ∧
  (∀ v i, v ≤ 32767 → ((extStep (BitVec.ofNat 16 (v / 10 ^ i))).valid = true ↔ i < (digits v).length) ∧
    (extStep (BitVec.ofNat 16 (v / 10 ^ i))).digit.val = v / 10 ^ i % 10)

/-- R70: the digits of every natural number, weighted by powers of ten, add up to it; 0 has none. -/
def Obligations.DigitsReassembleTheNumber : Prop :=
  (∀ v : Nat, weightedSum 0 (digits v) = v) ∧ digits 0 = []

/-- R77 from R76: the pattern of slot `i`, on the working value `v div 10^i` of a pass, is the byte of the closed form.
(For v from 10000 on, the bytes are those of R77 and R91: log entry 15.) -/
def Obligations.SlotPatternMatchesClosedForm : Prop :=
  ∀ v i, v ≤ 32767 → i < 4 → slotPattern (BitVec.ofNat 16 (v / 10 ^ i)) i = passByte v i

/-- R89: the slots that are not blank are as many as the value has significant digits. -/
def Obligations.NonBlankSlotsAreSignificantDigits : Prop :=
  ∀ v, v ≤ 9999 → ((passBytes v).filter fun b => b ≠ 0xFF).length = significantDigits v

/-- R90: no stray leading zero: slot 3 is blank below 1000, and no position left of the most significant digit shows
a zero. -/
def Obligations.NoStrayLeadingZero : Prop :=
  (∀ v, v ≤ 999 → passByte v 3 = 0xFF) ∧
  (∀ v i, v ≤ 9999 → i < 4 → significantDigits v ≤ i → passByte v i ≠ 0xC0)

/-- R63 and R64: the ten bytes of the table, and the segments each lights under the layout of R51; 10 to 15 have no
byte. -/
def Obligations.EncoderTableBytesAndSegments : Prop :=
  encLookup 0 = some 0xC0 ∧ encLookup 1 = some 0xF9 ∧ encLookup 2 = some 0xA4 ∧ encLookup 3 = some 0xB0 ∧
  encLookup 4 = some 0x99 ∧ encLookup 5 = some 0x92 ∧ encLookup 6 = some 0x82 ∧ encLookup 7 = some 0xF8 ∧
  encLookup 8 = some 0x80 ∧ encLookup 9 = some 0x90 ∧ (∀ d : BitVec 4, 10 ≤ d.toNat → encLookup d = none) ∧
  litSegments (encDigit 0) = [.a, .b, .c, .d, .e, .f] ∧ litSegments (encDigit 1) = [.b, .c] ∧
  litSegments (encDigit 2) = [.a, .b, .d, .e, .g] ∧ litSegments (encDigit 3) = [.a, .b, .c, .d, .g] ∧
  litSegments (encDigit 4) = [.b, .c, .f, .g] ∧ litSegments (encDigit 5) = [.a, .c, .d, .f, .g] ∧
  litSegments (encDigit 6) = [.a, .c, .d, .e, .f, .g] ∧ litSegments (encDigit 7) = [.a, .b, .c] ∧
  litSegments (encDigit 8) = [.a, .b, .c, .d, .e, .f, .g] ∧ litSegments (encDigit 9) = [.a, .b, .c, .d, .f, .g]

/-- R92: the source's example 105: digits [5, 0, 1], and the bytes of the four slots. -/
def Obligations.Example105ShowsItsDigits : Prop :=
  digits 105 = [5, 0, 1] ∧ passBytes 105 = [0x92, 0xC0, 0xF9, 0xFF]

/-! ### Configuration and scripts -/

/-- R108: a configuration is refused exactly when one of its three bounds fails, and else is the one asked for; every
configuration there is meets the bounds. -/
def Obligations.BuildRefusesIllegalConfigurations : Prop :=
  (∀ (p : Platform) (h width : Nat), (∃ c, buildConfig p h width = .ok c ∧ c.holdCycles = h ∧ c.htWidth = width ∧ c.platform = p) ↔
    (1 ≤ width ∧ 1 ≤ h ∧ h ≤ 2 ^ width)) ∧
  (∀ (p : Platform) (h width : Nat), ¬ (1 ≤ width ∧ 1 ≤ h ∧ h ≤ 2 ^ width) → ∃ e, buildConfig p h width = .error e) ∧
  (∀ c : Config, 1 ≤ c.htWidth ∧ 1 ≤ c.holdCycles ∧ c.holdCycles ≤ 2 ^ c.htWidth)

/-- R58 without its comments: the four script lines encode to their STIM words, and the value bus is sticky, at 0 to begin with.
(R60 admits no literal above 65535: that such a one is reduced modulo 2^16 is the model's choice, log entry 19.) -/
def Obligations.ScriptLinesEncodeToWords : Prop :=
  (∀ (h : Nat) (bus : Value) (v : Nat),
    assembleLine h bus .reset = ([BitVec.ofNat 18 (0x20000 + bus.toNat)], bus) ∧
    assembleLine h bus (.refresh v) = ([BitVec.ofNat 18 (0x10000 + v % 65536)], BitVec.ofNat 16 v) ∧
    assembleLine h bus .nop = ([BitVec.ofNat 18 bus.toNat], bus) ∧
    assembleLine h bus (.nopValue v) = ([BitVec.ofNat 18 (v % 65536)], BitVec.ofNat 16 v)) ∧
  (∀ (h : Nat) (bus : Value) (l : ScriptLine) (ls : List ScriptLine),
    assembleFrom h bus (l :: ls) = (assembleLine h bus l).1 ++ assembleFrom h (assembleLine h bus l).2 ls) ∧
  (∀ (h : Nat) (ls : List ScriptLine), assemble h ls = assembleFrom h 0 ls)

/-- R59: WAIT and PASS expand as the table says; a PASS issued in IDLE with PEND 0 on a legal value ends in IDLE with
the whole pass done.
(For v from 10000 on, the bytes are those of R77 and R91: log entry 15. A literal above 65535 is expanded too, and reduced: log entry 19.) -/
def Obligations.PassCommandRunsAWholePass : Prop :=
  (∀ (h n : Nat) (bus : Value), assembleFrom h bus [.wait n] = assembleFrom h bus (List.replicate n .nop)) ∧
  (∀ (h v : Nat) (bus : Value), assembleFrom h bus [.pass v] = assembleFrom h bus [.refresh v, .wait (4 * h + 9)]) ∧
  (∀ (s : State) (r : Regs) (v : Nat) (bus : Value) (rest : List Request), s.regs = some r → r.state = .idle →
    r.pend = false → v ≤ 32767 →
    s.script = (assembleFrom s.cfg.holdCycles bus [.pass v]).map Request.stim ++ rest →
      ∃ t u, stepN (4 * s.cfg.holdCycles + 10) s = .next t ∧ t.regs = some u ∧ u.state = .idle ∧ u.pend = false ∧
        t.script = rest ∧ t.trace = s.trace ++ passTrace s.cfg.holdCycles s.cycle v)

/-- R55: the hold operand is `H - 1` exactly and fits HT, and the ENC operand `W mod 10` always has a table entry (R67).
(With W[15] = 1, which no pass has, the reading of W is the model's: log entry 13.) -/
def Obligations.OperandsFitTheirFields : Prop :=
  (∀ c : Config, holdLoad c = c.holdCycles - 1 ∧ holdLoad c < 2 ^ c.htWidth) ∧
  (∀ w : Value, encLookup (BitVec.ofNat 4 (w.toNat % 10)) = some (encDigit (lowDigit w.toNat)))
end

