-- ==== Sys2Proof/Laws/State.lean ====
section
/-! SUPPORT. One lemma per field of each update of the state, all by `rfl`, so that no proof unfolds a record update. -/

namespace Sys2Proof.Machine

variable (s : State) (e : Effect) (b : Bool) (v : Value) (w : BitVec 18)

@[simp] theorem commit_cfg : (commit e s).cfg = s.cfg := rfl
@[simp] theorem commit_regs : (commit e s).regs = some e.regs := rfl
@[simp] theorem commit_inputs : (commit e s).inputs = s.inputs := rfl
@[simp] theorem commit_script : (commit e s).script = s.script := rfl
@[simp] theorem commit_cycle : (commit e s).cycle = s.cycle := rfl
@[simp] theorem commit_trace : (commit e s).trace = s.trace ++ stampWrites s.cycle e.writes := rfl
@[simp] theorem commit_encOut : (commit e s).encOut = s.encOut := rfl

@[simp] theorem endCycle_cfg : (endCycle s).cfg = s.cfg := rfl
@[simp] theorem endCycle_regs : (endCycle s).regs = s.regs := rfl
@[simp] theorem endCycle_inputs : (endCycle s).inputs = s.inputs := rfl
@[simp] theorem endCycle_script : (endCycle s).script = s.script := rfl
@[simp] theorem endCycle_cycle : (endCycle s).cycle = s.cycle + 1 := rfl
@[simp] theorem endCycle_trace : (endCycle s).trace = s.trace := rfl
@[simp] theorem endCycle_encOut : (endCycle s).encOut = s.encOut := rfl

@[simp] theorem drive_cfg : (drive b v s).cfg = s.cfg := rfl
@[simp] theorem drive_regs : (drive b v s).regs = s.regs := rfl
@[simp] theorem drive_inputs : (drive b v s).inputs = ⟨b, v⟩ := rfl
@[simp] theorem drive_script : (drive b v s).script = s.script := rfl
@[simp] theorem drive_cycle : (drive b v s).cycle = s.cycle := rfl
@[simp] theorem drive_trace : (drive b v s).trace = s.trace := rfl
@[simp] theorem drive_encOut : (drive b v s).encOut = s.encOut := rfl

@[simp] theorem latchStart_cfg : (latchStart s).cfg = s.cfg := rfl
@[simp] theorem latchStart_regs : (latchStart s).regs = s.regs.map (latchRegs s.inputs) := rfl
@[simp] theorem latchStart_inputs : (latchStart s).inputs = s.inputs := rfl
@[simp] theorem latchStart_script : (latchStart s).script = s.script := rfl
@[simp] theorem latchStart_cycle : (latchStart s).cycle = s.cycle := rfl
@[simp] theorem latchStart_trace : (latchStart s).trace = s.trace := rfl
@[simp] theorem latchStart_encOut : (latchStart s).encOut = s.encOut := rfl

@[simp] theorem losePower_cfg : (losePower s).cfg = s.cfg := rfl
@[simp] theorem losePower_regs : (losePower s).regs = none := rfl
@[simp] theorem losePower_inputs : (losePower s).inputs = s.inputs := rfl
@[simp] theorem losePower_script : (losePower s).script = s.script := rfl
@[simp] theorem losePower_cycle : (losePower s).cycle = s.cycle := rfl
@[simp] theorem losePower_trace : (losePower s).trace = s.trace := rfl
@[simp] theorem losePower_encOut : (losePower s).encOut = s.encOut := rfl

@[simp] theorem dropRequest_cfg : (dropRequest s).cfg = s.cfg := rfl
@[simp] theorem dropRequest_regs : (dropRequest s).regs = s.regs := rfl
@[simp] theorem dropRequest_inputs : (dropRequest s).inputs = s.inputs := rfl
@[simp] theorem dropRequest_cycle : (dropRequest s).cycle = s.cycle := rfl
@[simp] theorem dropRequest_trace : (dropRequest s).trace = s.trace := rfl
@[simp] theorem dropRequest_encOut : (dropRequest s).encOut = s.encOut := rfl

@[simp] theorem sampleInputs_cfg : (sampleInputs w s).cfg = s.cfg := rfl
@[simp] theorem sampleInputs_regs : (sampleInputs w s).regs = s.regs := rfl
@[simp] theorem sampleInputs_inputs : (sampleInputs w s).inputs = ⟨stimStart w, stimValue w⟩ := rfl
@[simp] theorem sampleInputs_script : (sampleInputs w s).script = s.script := rfl
@[simp] theorem sampleInputs_cycle : (sampleInputs w s).cycle = s.cycle := rfl
@[simp] theorem sampleInputs_trace : (sampleInputs w s).trace = s.trace := rfl
@[simp] theorem sampleInputs_encOut : (sampleInputs w s).encOut = s.encOut := rfl

end Sys2Proof.Machine
end

