-- ==== Sys2Proof/Laws/Ops.lean ====
section
/-! SUPPORT. For each shared operation, once, everything it can do. -/

namespace Sys2Proof.Machine

/-- An operation of the registers completes exactly when the registers hold values. -/
theorem onRegs_eq_next {f : Regs → Effect} {s t : State} :
    onRegs f s = .next t ↔ ∃ r, s.regs = some r ∧ t = commit (f r) s := by
  unfold onRegs
  cases s.regs with
  | none => simp
  | some r => simp [eq_comm]

theorem onRegs_some {f : Regs → Effect} {s : State} {r : Regs} (h : s.regs = some r) :
    onRegs f s = .next (commit (f r) s) :=
  onRegs_eq_next.mpr ⟨r, h, rfl⟩

/-- Before the first reset every operation of the registers faults. -/
theorem onRegs_none {f : Regs → Effect} {s : State} (h : s.regs = none) :
    onRegs f s = .fault .noValueBeforeReset := by
  simp [onRegs, h]

/-- The register transfer of the micro-operation that STATE selects. -/
def stateEffect (c : Config) (t : Nat) (inp : Inputs) (r : Regs) : Effect :=
  match r.state with
  | .idle => idleEffect inp r
  | .select => selectEffect r
  | .write => writeEffect c t r
  | .hold => holdEffect r
  | .advance => advanceEffect r
  | .rsv5 => faultEffect .illegalState r
  | .rsv6 => faultEffect .illegalState r
  | .fault => ⟨r, []⟩

/-- The register transfer of a whole cycle with `rst = 0`: the latch, then the micro-operation (R83). -/
def cycleEffect (c : Config) (t : Nat) (inp : Inputs) (r : Regs) : Effect :=
  stateEffect c t inp (latchRegs inp r)

theorem microOp_none {s : State} (h : s.regs = none) : microOp s = .fault .noValueBeforeReset := by
  simp [microOp, h]

theorem microOp_some {s : State} {r : Regs} (h : s.regs = some r) :
    microOp s = .next (commit (stateEffect s.cfg s.cycle s.inputs r) s) := by
  unfold microOp stateEffect
  rw [h]
  cases hr : r.state <;>
    simp only [hr, execSeqIdle, execSeqSelect, execSeqWrite, execSeqHold, execSeqAdvance, execSeqRsv5,
      execSeqRsv6, execSeqFault, onRegs_some h]

/-- The state's own rule is the instruction that STATE's code decodes to (R46, R49). -/
theorem microOp_eq_exec {s : State} {r : Regs} (h : s.regs = some r) :
    microOp s = exec (microInstr r.state) s := by
  unfold microOp
  rw [h]
  cases hr : r.state <;> simp only [hr] <;> rfl

@[simp] theorem thenEndCycle_next (s : State) : thenEndCycle (.next s) = .next (endCycle s) := rfl

theorem runCycle_none {s : State} (b : Bool) (v : Value) (h : s.regs = none) :
    runCycle b v s = .fault .noValueBeforeReset := by
  have : (latchStart (drive b v s)).regs = none := by simp [h]
  simp [runCycle, microOp_none this, thenEndCycle]

/-- A cycle with `rst = 0` once the registers hold values: it always completes (R83). -/
theorem runCycle_some {s : State} {r : Regs} (b : Bool) (v : Value) (h : s.regs = some r) :
    runCycle b v s = .next (endCycle (commit (cycleEffect s.cfg s.cycle ⟨b, v⟩ r) (drive b v s))) := by
  have h' : (latchStart (drive b v s)).regs = some (latchRegs ⟨b, v⟩ r) := by simp [h]
  rw [runCycle, microOp_some h']
  rfl

/-- A lookup of a legal digit completes and writes the encoder's result alone. -/
theorem lookupDigit_next {d : BitVec 4} {s t : State} (h : lookupDigit d s = .next t) :
    ∃ p, encLookup d = some p ∧ t = { s with encOut := some p } := by
  unfold lookupDigit at h
  split at h
  · exact ⟨_, ‹_›, by simpa using h.symm⟩
  · cases h

/-- The latch leaves every register but PEND alone, and sets PEND only (R84). -/
theorem latchRegs_eq (inp : Inputs) (r : Regs) :
    latchRegs inp r = { r with pend := r.pend || (inp.start && inPass r.state) } := by
  unfold latchRegs
  cases h : inp.start && inPass r.state <;> simp

@[simp] theorem latchRegs_state (inp : Inputs) (r : Regs) : (latchRegs inp r).state = r.state := by
  simp [latchRegs_eq]

/-- The hold operand is `H - 1` exactly, because `H <= 2^HT_WIDTH` (R55). -/
theorem holdLoad_eq (c : Config) : holdLoad c = c.holdCycles - 1 := by
  have := c.hold_pos
  have := c.hold_fits
  exact Nat.mod_eq_of_lt (by omega)

theorem holdLoad_lt (c : Config) : holdLoad c < 2 ^ c.htWidth :=
  Nat.mod_lt _ (Nat.two_pow_pos _)

/-- The sequencer's codes and states correspond one to one (R16). -/
theorem seqStateOf_seqCode (st : SeqState) : seqStateOf (seqCode st) = st := by
  cases st <;> rfl

theorem seqCode_seqStateOf : ∀ c : BitVec 3, seqCode (seqStateOf c) = c := by decide

end Sys2Proof.Machine
end

