-- ==== Sys2Proof/Laws/PerInstr.lean ====
section
/-! SUPPORT. The family EncodedRow: the encoding of an instruction matches the instruction's own row of the opcode table (R61). -/

namespace Sys2Proof.Laws.EncodedRow

/-- The encoded word matches the instruction's row: the format, and the `match` bits under the `mask`. -/
def Statement (i : Instr) : Prop := i.wellFormed = true → (tableRow i).matchesWord (encode i) = true

/-- The three fields of a STIM word as numbers (R47). -/
theorem stimWord_toNat (rst start : Bool) (v : Value) :
    (stimWord rst start v).toNat = rst.toNat * 131072 + start.toNat * 65536 + v.toNat := by
  have hv := v.isLt
  change (BitVec.ofBool rst ++ BitVec.ofBool start ++ v : BitVec (1 + 1 + 16)).toNat = _
  rw [BitVec.toNat_append, BitVec.toNat_append, ← Nat.shiftLeft_add_eq_or_of_lt hv]
  cases rst <;> cases start <;> rfl

/-- Masking out `value` leaves the two top bits. -/
theorem mask_top (n v : Nat) (h : v < 65536) (hn : n < 4) : (n * 65536 + v) &&& 0x30000 = n * 65536 := by
  have h1 : n * 65536 + v = n <<< 16 ||| v := by
    rw [← Nat.shiftLeft_add_eq_or_of_lt (by simpa using h), Nat.shiftLeft_eq]
  have h2 : (0x30000 : Nat) = 3 <<< 16 := rfl
  rw [h1, h2, Nat.and_comm, Nat.and_or_distrib_left, Nat.and_comm (3 <<< 16) v]
  have h3 : v &&& 3 <<< 16 = 0 := by
    apply Nat.eq_of_testBit_eq
    intro k
    by_cases hk : k < 16
    · have hz : (3 <<< 16).testBit k = false := by interval_cases k <;> rfl
      rw [Nat.testBit_and, hz, Bool.and_false, Nat.zero_testBit]
    · have : v.testBit k = false :=
        Nat.testBit_lt_two_pow (Nat.lt_of_lt_of_le h (by simpa using Nat.pow_le_pow_right (n := 2) (by decide) (Nat.not_lt.mp hk)))
      simp [this]
  rw [h3]
  interval_cases n <;> rfl

theorem reset : Statement .reset := fun _ => by decide

theorem refresh (value : Value) : Statement (.refresh value) := fun _ => by
  have h := mask_top 1 value.toNat value.isLt (by decide)
  simp only [encode, tableRow, TableRow.matchesWord, TableWord.format, TableWord.bits, stimWord_toNat]
  simpa using h

theorem nop (value : Value) : Statement (.nop value) := fun _ => by
  have h := mask_top 0 value.toNat value.isLt (by decide)
  simp only [encode, tableRow, TableRow.matchesWord, TableWord.format, TableWord.bits, stimWord_toNat]
  simpa using h

theorem seqIdle : Statement .seqIdle := fun _ => by decide
theorem seqSelect : Statement .seqSelect := fun _ => by decide
theorem seqWrite : Statement .seqWrite := fun _ => by decide
theorem seqHold : Statement .seqHold := fun _ => by decide
theorem seqAdvance : Statement .seqAdvance := fun _ => by decide
theorem seqRsv5 : Statement .seqRsv5 := fun _ => by decide
theorem seqRsv6 : Statement .seqRsv6 := fun _ => by decide
theorem seqFault : Statement .seqFault := fun _ => by decide
theorem enc0 : Statement .enc0 := fun _ => by decide
theorem enc1 : Statement .enc1 := fun _ => by decide
theorem enc2 : Statement .enc2 := fun _ => by decide
theorem enc3 : Statement .enc3 := fun _ => by decide
theorem enc4 : Statement .enc4 := fun _ => by decide
theorem enc5 : Statement .enc5 := fun _ => by decide
theorem enc6 : Statement .enc6 := fun _ => by decide
theorem enc7 : Statement .enc7 := fun _ => by decide
theorem enc8 : Statement .enc8 := fun _ => by decide
theorem enc9 : Statement .enc9 := fun _ => by decide

end Sys2Proof.Laws.EncodedRow
end

