-- ==== Sys2Proof/Laws/Step.lean ====
section
/-! SUPPORT. One step: what it can do (`step_cases`), and what it does on each request. -/

namespace Sys2Proof.Machine

variable {s t : State} {r : Regs}

theorem nextRequest_cons {q : Request} {rest : List Request} (h : s.script = q :: rest) :
    nextRequest s = (q, rest) := by
  simp [nextRequest, h]

theorem dropRequest_script_cons {q : Request} {rest : List Request} (h : s.script = q :: rest) :
    (dropRequest s).script = rest := by
  simp [dropRequest, nextRequest_cons h]

/-- A cycle's word is decoded and run on the levels it drives (R47, R48). -/
theorem step_stim {w : BitVec 18} (h : (nextRequest s).1 = .stim w) :
    step s = exec (decodeStim w) (sampleInputs w (dropRequest s)) := by
  simp [step, h]

/-- A cycle with `rst = 1` is RESET (R48, R112). -/
theorem step_reset {w : BitVec 18} (h : (nextRequest s).1 = .stim w) (hr : stimRst w = true) :
    step s = execReset (sampleInputs w (dropRequest s)) := by
  simp [step_stim h, decodeStim, hr, exec]

/-- A cycle with `rst = 0` runs with the word's `start` and `value` (R83). -/
theorem step_cycle {w : BitVec 18} (h : (nextRequest s).1 = .stim w) (hr : stimRst w = false) :
    step s = runCycle (stimStart w) (stimValue w) (dropRequest s) := by
  have hd : ∀ x b v, drive b v (sampleInputs w x) = drive b v x := fun _ _ _ => rfl
  cases hs : stimStart w <;>
    simp [step_stim h, decodeStim, hr, hs, exec, execRefresh, execNop, runCycle, hd]

/-- The state after a cycle with `rst = 0`. -/
def afterCycle (w : BitVec 18) (r : Regs) (s : State) : State :=
  endCycle (commit (cycleEffect s.cfg s.cycle ⟨stimStart w, stimValue w⟩ r) (drive (stimStart w) (stimValue w) (dropRequest s)))

theorem step_cycle_some {w : BitVec 18} (h : (nextRequest s).1 = .stim w) (hr : stimRst w = false)
    (hs : s.regs = some r) : step s = .next (afterCycle w r s) := by
  have hs' : (dropRequest s).regs = some r := hs
  simp [step_cycle h hr, runCycle_some _ _ hs', afterCycle]

/-- Decoding a LUT digit and running it is the lookup of that digit: refused for 10 to 15 (R62). -/
theorem exec_decodeLut (d : BitVec 4) (s : State) :
    (match decodeLut d with
      | .ok i => exec i s
      | .error _ => .refused .encRange) = lookupDigit d s := by
  obtain ⟨n, hn⟩ := d
  interval_cases n <;> rfl

theorem step_lut {d : BitVec 4} (h : (nextRequest s).1 = .lut d) :
    step s = lookupDigit d (dropRequest s) := by
  rw [← exec_decodeLut]
  simp only [step, h] <;> cases decodeLut d <;> rfl

/-- EVERYTHING A STEP CAN DO when it answers a next state. -/
theorem step_cases (h : step s = .next t) :
    (∃ w, (nextRequest s).1 = .stim w ∧ stimRst w = true ∧
        t = endCycle (commit resetEffect (sampleInputs w (dropRequest s)))) ∨
    (∃ w r, (nextRequest s).1 = .stim w ∧ stimRst w = false ∧ s.regs = some r ∧ t = afterCycle w r s) ∨
    (∃ d p, (nextRequest s).1 = .lut d ∧ encLookup d = some p ∧ t = { dropRequest s with encOut := some p }) ∨
    ((nextRequest s).1 = .powerCycle ∧ t = losePower (dropRequest s)) := by
  cases hq : (nextRequest s).1 with
  | stim w =>
    cases hr : stimRst w with
    | true =>
      rw [step_reset hq hr] at h
      exact .inl ⟨w, rfl, hr, by simpa [execReset] using h.symm⟩
    | false =>
      cases hs : s.regs with
      | none =>
        rw [step_cycle hq hr, runCycle_none _ _ (by simpa using hs)] at h
        cases h
      | some r =>
        rw [step_cycle_some hq hr hs] at h
        exact .inr (.inl ⟨w, r, rfl, hr, rfl, by simpa using h.symm⟩)
  | lut d =>
    rw [step_lut hq] at h
    obtain ⟨p, hp, ht⟩ := lookupDigit_next h
    exact .inr (.inr (.inl ⟨d, p, rfl, hp, ht⟩))
  | powerCycle =>
    simp only [step, hq] at h
    exact .inr (.inr (.inr ⟨rfl, by simpa using h.symm⟩))

/-- A run taken apart at its first step. -/
theorem stepN_succ {k : Nat} (h : step s = .next t) : stepN (k + 1) s = stepN k t := by
  simp [stepN, h]

/-- A run taken apart anywhere. -/
theorem stepN_add (j k : Nat) (s : State) {t : State} (h : stepN j s = .next t) :
    stepN (j + k) s = stepN k t := by
  induction j generalizing s with
  | zero => simp only [stepN] at h; cases h; simp
  | succ j ih =>
    rw [Nat.add_right_comm, stepN]
    simp only [stepN] at h
    split at h
    · exact ih _ h
    · cases h
    · cases h

/-- `stepN` is the host's run of this machine. -/
theorem stepN_eq_run (k : Nat) (s : State) : stepN k s = Host.Core.run Sys2Proof.core k s := by
  induction k generalizing s with
  | zero => rfl
  | succ k ih =>
    cases h : step s with
    | next t =>
      have h' : Sys2Proof.core.step s = .next t := h
      simp only [stepN, Host.Core.run, h, h', ih t]
      rfl
    | fault f =>
      have h' : Sys2Proof.core.step s = .fault f := h
      simp only [stepN, Host.Core.run, h, h']
      rfl
    | refused f =>
      have h' : Sys2Proof.core.step s = .refused f := h
      simp only [stepN, Host.Core.run, h, h']
      rfl

end Sys2Proof.Machine
end

