-- ==== Sys2Proof/Laws/Units.lean ====
section
/-! SUPPORT. The units of the datapath, each in terms of natural numbers (R54, R55, R68, R82), and the cycle's register transfer
state by state (R83). -/

namespace Sys2Proof.Machine

/-- The three fields of a STIM word are what it was made of (R47). -/
@[simp] theorem stimRst_stimWord (rst start : Bool) (v : Value) : stimRst (stimWord rst start v) = rst := by
  unfold stimRst stimWord
  rw [BitVec.getLsbD_append]
  cases rst <;> cases start <;> rfl

@[simp] theorem stimStart_stimWord (rst start : Bool) (v : Value) : stimStart (stimWord rst start v) = start := by
  unfold stimStart stimWord
  rw [BitVec.getLsbD_append]
  cases rst <;> cases start <;> rfl

@[simp] theorem stimValue_stimWord (rst start : Bool) (v : Value) : stimValue (stimWord rst start v) = v := by
  unfold stimValue stimWord
  ext i hi
  simp only [BitVec.getElem_extractLsb', Nat.zero_add]
  rw [BitVec.getLsbD_append]
  simp [hi]

theorem value_eq_zero_iff (w : Value) : w = 0 ↔ w.toNat = 0 := by
  rw [← BitVec.toNat_inj]; rfl

/-- Bit 15 set is the upper half of the range (R54). -/
theorem negative_iff (v : Value) : negative v = true ↔ 32768 ≤ v.toNat := by
  have := v.isLt
  simp only [negative, BitVec.getLsbD, Nat.testBit, Nat.shiftRight_eq_div_pow]
  simp
  omega

theorem extStep_valid_iff (w : Value) : (extStep w).valid = true ↔ w.toNat ≠ 0 := by
  simp [extStep, ← value_eq_zero_iff]

theorem extStep_next_toNat (w : Value) : (extStep w).next.toNat = w.toNat / 10 := by
  have := w.isLt
  simp only [extStep, BitVec.toNat_ofNat]
  omega

theorem nextSlot_toNat (slot : BitVec 2) : (nextSlot slot).toNat = (slot.toNat + 1) % 4 := by
  simp [nextSlot]

theorem afterSlot_last {slot : BitVec 2} (h : slot.toNat = 3) : afterSlot slot = .idle := if_pos h

theorem afterSlot_inner {slot : BitVec 2} (h : slot.toNat ≠ 3) : afterSlot slot = .write := if_neg h

/-- Counting from below 7 is exact; reachable states stay at 4 or below (R32 (h)). -/
theorem countDigit_toNat {t : Nat} {n : BitVec 3} (h : n.toNat < 7) : (countDigit t n).toNat = n.toNat + 1 := by
  have hne : n ≠ 7 := fun hc => by simp [hc] at h
  simp only [countDigit, if_neg hne, BitVec.toNat_ofNat]
  omega

variable {c : Config} {t : Nat} {inp : Inputs} {r : Regs}

/-- Outside SELECT, WRITE, HOLD and ADVANCE nothing is latched. -/
theorem latchRegs_outside (h : inPass r.state = false) : latchRegs inp r = r := by
  simp [latchRegs, h]

theorem cycleEffect_idle (h : r.state = .idle) : cycleEffect c t inp r = idleEffect inp r := by
  rw [cycleEffect, latchRegs_outside (by rw [h]; rfl)]
  simp [stateEffect, h]

theorem cycleEffect_select (h : r.state = .select) :
    cycleEffect c t inp r = selectEffect { r with pend := r.pend || inp.start } := by
  simp [cycleEffect, latchRegs_eq, stateEffect, h, inPass]

theorem cycleEffect_write (h : r.state = .write) :
    cycleEffect c t inp r = writeEffect c t { r with pend := r.pend || inp.start } := by
  simp [cycleEffect, latchRegs_eq, stateEffect, h, inPass]

theorem cycleEffect_hold (h : r.state = .hold) :
    cycleEffect c t inp r = holdEffect { r with pend := r.pend || inp.start } := by
  simp [cycleEffect, latchRegs_eq, stateEffect, h, inPass]

theorem cycleEffect_advance (h : r.state = .advance) :
    cycleEffect c t inp r = advanceEffect { r with pend := r.pend || inp.start } := by
  simp [cycleEffect, latchRegs_eq, stateEffect, h, inPass]

theorem cycleEffect_reserved (h : r.state = .rsv5 ∨ r.state = .rsv6) :
    cycleEffect c t inp r = faultEffect .illegalState r := by
  rw [cycleEffect, latchRegs_outside (by rcases h with h | h <;> rw [h] <;> rfl)]
  rcases h with h | h <;> simp [stateEffect, h]

theorem cycleEffect_fault (h : r.state = .fault) : cycleEffect c t inp r = ⟨r, []⟩ := by
  rw [cycleEffect, latchRegs_outside (by rw [h]; rfl)]
  simp [stateEffect, h]

end Sys2Proof.Machine
end

