-- ==== Sys2Proof/Tests/Slice0.lean ====
section
/-! SUPPORT. The tests: ill-formed terms the checks refuse, words written out from the encodings, one-cycle vectors (the expected
values are those of 95_test_vectors.md, by their ids there), and a witness for each statement that has hypotheses. -/

namespace Sys2Proof.Tests

open Sys2Proof Sys2Proof.Machine

/-! ### Small states -/

/-- A platform for the tests; no rule reads it. -/
def plat : Platform := ⟨8000000, .activeHigh, none, none, by norm_num⟩

/-- `H`, at width 16. -/
def cfg (h : Nat) (pos : 1 ≤ h := by decide) (fits : h ≤ 2 ^ 16 := by decide) : Config :=
  ⟨h, 16, plat, by decide, pos, fits⟩

/-- The registers after reset, in another state. -/
def regsIn (st : SeqState) : Regs := { resetRegs with state := st }

/-- A block with these registers in cycle 5, an empty trace, and these inputs. -/
def blk (r : Regs) (start : Bool := false) (value : Value := 0) (h : Config := cfg 2) : State :=
  { State.resetWith h with regs := some r, inputs := ⟨start, value⟩, cycle := 5, trace := [] }

/-- The registers of a next state. -/
def regsOf : Host.Outcome State Fault Refusal → Option Regs
  | .next s => s.regs
  | .fault _ => none
  | .refused _ => none

/-- The trace of a next state, as (port, byte) pairs. -/
def writesOf : Host.Outcome State Fault Refusal → Option (List (Port × Byte))
  | .next s => some (s.trace.map fun e => (e.port, e.byte))
  | .fault _ => none
  | .refused _ => none

/-- The result of a lookup. -/
def encOf : Host.Outcome State Fault Refusal → Option Byte
  | .next s => s.encOut
  | .fault _ => none
  | .refused _ => none

/-- Whether the outcome is a fault. -/
def isFault : Host.Outcome State Fault Refusal → Bool
  | .next _ => false
  | .fault _ => true
  | .refused _ => false

/-- Whether the outcome is a refusal of the encoder. -/
def isEncRange : Host.Outcome State Fault Refusal → Bool
  | .next _ => false
  | .fault _ => false
  | .refused r => r = .encRange

/-! ### Well-formedness: each check refuses an ill-formed term (R50, R60, R108: CFG-1 to CFG-7) -/

theorem test_refuse_refresh_literal : (ScriptLine.refresh 65536).wellFormed = false := by decide
theorem test_refuse_nop_literal : (ScriptLine.nopValue 65536).wellFormed = false := by decide
theorem test_refuse_wait_literal : (ScriptLine.wait 65536).wellFormed = false := by decide
theorem test_refuse_pass_literal : (ScriptLine.pass 65536).wellFormed = false := by decide
theorem test_accept_largest_literal : (ScriptLine.refresh 65535).wellFormed = true := by decide
theorem test_refuse_lut_digit : (TableWord.lut 10).wellFormed = false := by decide
theorem test_accept_lut_digit : (TableWord.lut 9).wellFormed = true := by decide
theorem test_refuse_hold_zero : buildConfig plat 0 = .error .configHoldZero := by rfl
theorem test_refuse_hold_past_width_2 : buildConfig plat 5 2 = .error .configHoldTooLong := by rfl
theorem test_refuse_width_zero : buildConfig plat 1 0 = .error .configWidthZero := by rfl
theorem test_refuse_hold_past_width_16 : buildConfig plat 65537 = .error .configHoldTooLong := by rfl
theorem test_accept_smallest_hold : buildConfig plat 1 = .ok (cfg 1) := by rfl
theorem test_accept_hold_at_width_2 : (buildConfig plat 4 2).map holdLoad = .ok 3 := by rfl

/-! ### Decoding: words written out bit by bit (R47 to R50, CMD-1 to CMD-8) -/

theorem test_decode_commands :
    decode (.stim 0b10_0000_0000_0000_0000) = .ok .reset ∧ decode (.stim 0b11_1111_1111_1111_1111) = .ok .reset ∧
    decode (.stim 0b01_0000_0000_0110_1001) = .ok (.refresh 105) ∧
    decode (.stim 0b01_1000_0000_0000_0000) = .ok (.refresh 0x8000) ∧
    decode (.stim 0b00_1111_1111_1111_1111) = .ok (.nop 0xFFFF) := by decide

theorem test_decode_seq_codes :
    decode (.seq 0b000) = .ok .seqIdle ∧ decode (.seq 0b001) = .ok .seqSelect ∧ decode (.seq 0b010) = .ok .seqWrite ∧
    decode (.seq 0b011) = .ok .seqHold ∧ decode (.seq 0b100) = .ok .seqAdvance ∧ decode (.seq 0b101) = .ok .seqRsv5 ∧
    decode (.seq 0b110) = .ok .seqRsv6 ∧ decode (.seq 0b111) = .ok .seqFault := by decide

theorem test_decode_lut_digits :
    decode (.lut 0b0000) = .ok .enc0 ∧ decode (.lut 0b0001) = .ok .enc1 ∧ decode (.lut 0b0010) = .ok .enc2 ∧
    decode (.lut 0b0011) = .ok .enc3 ∧ decode (.lut 0b0100) = .ok .enc4 ∧ decode (.lut 0b0101) = .ok .enc5 ∧
    decode (.lut 0b0110) = .ok .enc6 ∧ decode (.lut 0b0111) = .ok .enc7 ∧ decode (.lut 0b1000) = .ok .enc8 ∧
    decode (.lut 0b1001) = .ok .enc9 ∧ decode (.lut 0b1010) = .error (.encRange 10) ∧
    decode (.lut 0b1111) = .error (.encRange 15) := by decide

theorem test_encode_refresh_105 : encode (.refresh 105) = .stim 0x10069 := by decide

theorem test_decode_bare_numbers :
    decodeTableWord 24 0x20000 = some .reset ∧ decodeTableWord 24 0x10069 = some (.refresh 105) ∧
    decodeTableWord 24 0x0FFFF = some (.nop 0xFFFF) ∧ decodeTableWord 24 0x40000 = none ∧
    decodeTableWord 8 4 = some .seqAdvance ∧ decodeTableWord 8 9 = some .enc9 ∧ decodeTableWord 8 10 = none ∧
    decodeTableWord 8 16 = none ∧ decodeTableWord 4 4 = some .enc4 ∧ decodeTableWord 3 4 = some .seqAdvance ∧
    decodeTableWord 3 8 = none := by decide

theorem test_placed_stim_word_runs :
    (regsOf (step (State.reset.withFetchWord 24 0x10069))).map (fun r => (r.state, r.w)) = some (.select, 105) := by
  decide

theorem test_placed_seq_code_runs :
    (regsOf (step (State.reset.withFetchWord 8 1))).map (fun r => (r.state, r.sel)) = some (.write, 0x08) := by
  decide

theorem test_placed_lut_digit_runs : encOf (step (State.reset.withFetchWord 4 5)) = some 0x92 := by decide

/-! ### One cycle each (95, §2.4) -/

/-- SEQ-2. -/
theorem test_idle_starts_pass :
    regsOf (execSeqIdle (blk { regsIn .idle with w := 3, ndig := 4 } true 105)) =
      some { regsIn .select with w := 105 } := by decide

/-- SEQ-5. -/
theorem test_idle_negative_faults :
    regsOf (execSeqIdle (blk { regsIn .idle with w := 3, ndig := 4, seg := 0xA4 } true 0x8000)) =
      some { regsIn .fault with w := 3, ndig := 4, fcode := .negValue } := by decide

/-- SEQ-9. -/
theorem test_select_sets_sel :
    writesOf (execSeqSelect (blk (regsIn .select))) = some [(.sel, 0x08)] := by decide

/-- SEQ-11. -/
theorem test_write_105_slot_0 :
    regsOf (execSeqWrite (blk { regsIn .write with w := 105, sel := 0x08 })) =
      some { regsIn .hold with w := 10, ndig := 1, ht := 1, seg := 0x92, sel := 0x08 } := by decide

/-- SEQ-15: the thousands digit of 10005 is 0, so its position is dark, and the digit is counted. -/
theorem test_write_10005_slot_3 :
    regsOf (execSeqWrite (blk { regsIn .write with w := 10, slot := 3, ndig := 3 })) =
      some { regsIn .hold with w := 1, slot := 3, ndig := 4, ht := 1, seg := 0xFF } := by decide

/-- SEQ-20. -/
theorem test_hold_counts_down :
    regsOf (execSeqHold (blk { regsIn .hold with ht := 3 })) = some { regsIn .hold with ht := 2 } := by decide

/-- SEQ-21. -/
theorem test_hold_leaves_at_zero :
    regsOf (execSeqHold (blk (regsIn .hold))) = some (regsIn .advance) := by decide

/-- SEQ-23. -/
theorem test_advance_slot_0 :
    regsOf (execSeqAdvance (blk { regsIn .advance with sel := 0x08 })) =
      some { regsIn .write with sel := 0x04, slot := 1 } := by decide

/-- SEQ-25. -/
theorem test_advance_slot_3 :
    regsOf (execSeqAdvance (blk { regsIn .advance with sel := 0x01, slot := 3 })) = some (regsIn .idle) := by decide

/-- SEQ-28. -/
theorem test_rsv5_takes_illegal_state :
    regsOf (execSeqRsv5 (blk { regsIn .rsv5 with pend := true })) =
      some { regsIn .fault with fcode := .illegalState } := by decide

/-- SEQ-29: a `start` in that cycle is ignored. -/
theorem test_rsv6_takes_illegal_state :
    regsOf (execRefresh 5 (blk (regsIn .rsv6))) = some { regsIn .fault with fcode := .illegalState } := by decide

/-- SEQ-27. -/
theorem test_fault_ignores_start :
    regsOf (execRefresh 5 (blk { regsIn .fault with fcode := .negValue })) =
      some { regsIn .fault with fcode := .negValue } := by decide

/-- SEQ-10: a `start` in SELECT sets PEND. -/
theorem test_refresh_in_select_sets_pend :
    regsOf (execRefresh 7 (blk (regsIn .select))) = some { regsIn .write with sel := 0x08, pend := true } := by decide

/-- SEQ-3: a pending request is served on the `value` of the NOP. -/
theorem test_nop_serves_pend :
    regsOf (execNop 7 (blk { regsIn .idle with pend := true })) = some { regsIn .select with w := 7 } := by decide

/-- SEQ-8: no pass starts, so no test of the value. -/
theorem test_nop_in_idle_waits : regsOf (execNop 0x8000 (blk (regsIn .idle))) = some (regsIn .idle) := by decide

/-- RST-1. -/
theorem test_reset_abandons_pass :
    regsOf (execReset (blk { regsIn .hold with
      slot := 2, w := 1, ht := 5, ndig := 2, pend := true, seg := 0xF9, sel := 0x02 } true)) = some resetRegs := by decide

/-- RST-3 and RST-4. -/
theorem test_power_up_runs_reset_only :
    regsOf (execReset (State.powerUp (cfg 2))) = some resetRegs ∧ isFault (execNop 0 (State.powerUp (cfg 2))) = true := by
  decide

/-- R117: no register survives a loss of power. -/
theorem test_power_loss_empties_registers :
    regsOf (step { blk (regsIn .hold) with script := [.powerCycle] }) = none ∧
    (∃ t, step { blk (regsIn .hold) with script := [.powerCycle] } = .next t) := ⟨by decide, _, rfl⟩

/-- ENC-0 to ENC-9. -/
theorem test_enc_rows :
    encOf (execEnc0 (blk resetRegs)) = some 0xC0 ∧ encOf (execEnc1 (blk resetRegs)) = some 0xF9 ∧
    encOf (execEnc2 (blk resetRegs)) = some 0xA4 ∧ encOf (execEnc3 (blk resetRegs)) = some 0xB0 ∧
    encOf (execEnc4 (blk resetRegs)) = some 0x99 ∧ encOf (execEnc5 (blk resetRegs)) = some 0x92 ∧
    encOf (execEnc6 (blk resetRegs)) = some 0x82 ∧ encOf (execEnc7 (blk resetRegs)) = some 0xF8 ∧
    encOf (execEnc8 (blk resetRegs)) = some 0x80 ∧ encOf (execEnc9 (blk resetRegs)) = some 0x90 := by decide

/-- ENC-10: a lookup of 10 is refused. -/
theorem test_enc_10_refused : isEncRange (step { blk resetRegs with script := [.lut 10] }) = true := by decide

/-- PASS-17 and PASS-18. -/
theorem test_closed_form :
    passBytes 12345 = [0x92, 0x99, 0xB0, 0xA4] ∧ passBytes 20305 = [0x92, 0xC0, 0xB0, 0xFF] ∧
    passBytes 0 = [0xC0, 0xFF, 0xFF, 0xFF] := by decide

/-- EXT-8, and the digits of E2. -/
theorem test_extractor :
    extStep 32767 = ⟨true, 7, 3276⟩ ∧ digits 32767 = [7, 6, 7, 2, 3] := by decide

/-- The outputs of FAULT: `busy` and `fault` are 1 (R28). -/
theorem test_outputs_in_fault :
    readOutputs (blk { regsIn .fault with fcode := .illegalState, ndig := 4 }) =
      .ok ⟨0xFF, 0x00, true, true, 0b10, 4⟩ := by rfl

/-- Program P3's words (95, §3): the bus is sticky. -/
theorem test_assemble_p3 :
    assemble 1 [.reset, .refresh 0x8000, .nop, .refresh 5, .nop, .reset, .refresh 12345, .wait 2] =
      [0x20000, 0x18000, 0x08000, 0x10005, 0x00005, 0x20005, 0x13039, 0x03039, 0x03039] := by decide

/-- R58 and R60: a comment, a hexadecimal literal, and a literal out of range. -/
theorem test_read_lines :
    readLine ['R', 'E', 'F', 'R', 'E', 'S', 'H', ' ', '0', 'x', '6', '9', ' ', ';', 'x'] = .ok (some (.refresh 105)) ∧
    readLine ['W', 'A', 'I', 'T', ' ', '1', '8'] = .ok (some (.wait 18)) ∧
    readLine ['N', 'O', 'P', ' ', '6', '5', '5', '3', '6'] = .error .literalRange ∧
    readLine ['H', 'A', 'L', 'T'] = .error .unknownCommand := ⟨by rfl, by rfl, by rfl, by rfl⟩

/-! ### Witnesses: concrete data that meet the hypotheses of each statement, at the boundaries of its clauses -/

/-- The registers are there, in any state one likes. -/
theorem witness_registers (st : SeqState) : (blk (regsIn st)).regs = some (regsIn st) ∧ (regsIn st).state = st := ⟨rfl, rfl⟩

/-- StimDecodesByRstThenStart, ResetSetsEveryRegister: a word of each clause, and a pending pass at both ends of the value's range. -/
theorem witness_stim_clauses :
    (0x20000 : BitVec 18).getLsbD 17 = true ∧ (0x3FFFF : BitVec 18).getLsbD 17 = true ∧
    (0x1FFFF : BitVec 18).getLsbD 17 = false ∧ (0x1FFFF : BitVec 18).getLsbD 16 = true ∧
    (0x0FFFF : BitVec 18).getLsbD 17 = false ∧ (0x0FFFF : BitVec 18).getLsbD 16 = false ∧
    ({ regsIn .idle with pend := true }).state = .idle ∧ ({ regsIn .idle with pend := true }).pend = true ∧
    (0 : Value).toNat ≤ 32767 ∧ (0x7FFF : Value).toNat ≤ 32767 := by decide

/-- LutDigitSelectsOrIsRefused: the last legal digit, the first and last refused, and a state that looks one up. -/
theorem witness_lut_clauses :
    (9 : BitVec 4).toNat ≤ 9 ∧ 10 ≤ (10 : BitVec 4).toNat ∧ 10 ≤ (15 : BitVec 4).toNat ∧
    ({ blk resetRegs with script := [.lut 15] }).script = .lut 15 :: [] := ⟨by decide, by decide, by decide, rfl⟩

/-- DecodingUndoesEncoding, EncodingUndoesDecoding, TableAloneDecodes. -/
theorem witness_encoding :
    (Instr.refresh 0xFFFF).wellFormed = true ∧ decode (.stim 0x1FFFF) = .ok (.refresh 0xFFFF) ∧
    Instr.refresh 0xFFFF ≠ .reset ∧ (tableRow .enc9).matchesWord (.lut 9) = true ∧
    (tableRow .reset).matchesWord (.stim 0x3FFFF) = true := by decide

/-- StepRunsDecodedInstruction: a word, a lookup and the script's end. -/
theorem witness_step :
    ({ blk resetRegs with script := [.stim 0x10069] }).script = .stim 0x10069 :: [] ∧
    decode (.stim 0x10069) = .ok (.refresh 105) ∧
    ({ blk resetRegs with script := [.lut 5] }).script = .lut 5 :: [] ∧ decode (.lut 5) = .ok .enc5 ∧
    (blk resetRegs).script = [] ∧ (∃ i, decode (.stim (Config.hostStim (blk resetRegs).cycle)) = .ok i) :=
  ⟨rfl, by decide, rfl, by decide, rfl, _, rfl⟩

/-- CycleRunsTheStatesOperation, PendIsSetAndClearedByRule, OneWritePerCycleOfAPass: a cycle of every state, with and
without reset, completes. -/
theorem witness_cycle (st : SeqState) :
    let s := { blk (regsIn st) with script := [.stim 0x10007] }
    let s' := { blk (regsIn st) with script := [.stim 0x20000] }
    s.regs = some (regsIn st) ∧ s.script = .stim 0x10007 :: [] ∧ (0x10007 : BitVec 18).getLsbD 17 = false ∧
      (∃ t u, step s = .next t ∧ t.regs = some u) ∧
      s'.script = .stim 0x20000 :: [] ∧ (0x20000 : BitVec 18).getLsbD 17 = true ∧ (∃ t u, step s' = .next t ∧ t.regs = some u) := by
  intro s s'
  refine ⟨rfl, rfl, rfl, ?_, rfl, rfl, ?_⟩
  · exact ⟨_, _, step_cycle_some (r := regsIn st) (w := 0x10007) rfl (by decide) rfl, rfl⟩
  · exact ⟨_, _, step_reset (w := 0x20000) rfl (by decide), rfl⟩

/-- NothingRunsBeforeFirstReset: a block that holds no value, with either kind of word before it. -/
theorem witness_power_up :
    (State.powerUp (cfg 2)).regs = none ∧
    ({ State.powerUp (cfg 2) with script := [.stim 0x1FFFF] }).script = .stim 0x1FFFF :: [] ∧
    (0x1FFFF : BitVec 18).getLsbD 17 = false ∧
    ({ State.powerUp (cfg 2) with script := [.stim 0x20000] }).script = .stim 0x20000 :: [] ∧
    (0x20000 : BitVec 18).getLsbD 17 = true := ⟨rfl, rfl, rfl, rfl, rfl⟩

/-- IdleWaitsStartsOrFaults, RefreshRequestsAPass, NopRunsTheStatesOperation, NegativeValueTakesTheFault: the values where
the clauses meet. -/
theorem witness_idle_clauses :
    (0x7FFF : Value).getLsbD 15 = false ∧ (0x7FFF : Value).toNat ≤ 32767 ∧ (0x8000 : Value).getLsbD 15 = true ∧
    32768 ≤ (0x8000 : Value).toNat ∧ 32768 ≤ (0xFFFF : Value).toNat ∧
    (blk (regsIn .idle) true 0x7FFF).inputs = ⟨true, 0x7FFF⟩ ∧ (blk (regsIn .idle)).inputs = ⟨false, 0⟩ ∧
    (regsIn .idle).pend = false ∧ ({ regsIn .idle with pend := true }).pend = true := by decide

/-- WriteTakesOneDigit: W at 0 and at its largest, NDIG at the last count that is stated. -/
theorem witness_write_clauses :
    (0 : Value).toNat = 0 ∧ (0xFFFF : Value).toNat ≠ 0 ∧ (6 : BitVec 3).toNat < 7 ∧ (3 : BitVec 2).toNat = 3 ∧
    (blk { regsIn .write with w := 0xFFFF, ndig := 6, slot := 3 }).regs =
      some { regsIn .write with w := 0xFFFF, ndig := 6, slot := 3 } := by decide

/-- HoldCountsDown and AdvanceShiftsOnePosition: both sides of each test. -/
theorem witness_hold_and_advance_clauses :
    (regsIn .hold).ht = 0 ∧ ({ regsIn .hold with ht := 1 }).ht = 0 + 1 ∧
    ({ regsIn .advance with slot := 3 }).slot.toNat = 3 ∧ ({ regsIn .advance with slot := 2 }).slot.toNat ≠ 3 := by decide

/-- OnlyResetLeavesFault: a step of FAULT that is no reset and no loss of power. -/
theorem witness_fault_step :
    let s := { blk { regsIn .fault with fcode := .negValue } with script := [.stim 0x10005] }
    s.regs = some { regsIn .fault with fcode := .negValue } ∧ (∃ t, step s = .next t) ∧
      (∀ w, (nextRequest s).1 = .stim w → w.getLsbD 17 = false) ∧ (nextRequest s).1 ≠ .powerCycle := by
  intro s
  refine ⟨rfl, ⟨_, step_cycle_some (r := { regsIn .fault with fcode := .negValue }) (w := 0x10005) rfl (by decide) rfl⟩, ?_, by decide⟩
  intro w h
  cases h
  decide

/-- StepKeepsInvariant, StepKeepsTraceInvariant, NoStepChangesTheParameters, ReachableStatesMeetInvariant,
DecimalPointIsNeverLit, ReservedCodesTakeIllegalState: reset steps, and is reached from power-up. -/
theorem witness_invariants :
    let s := { State.resetWith (cfg 2) with script := [.stim 0x10069] }
    Inv s ∧ TraceOk s ∧ (∃ t, step s = .next t) ∧ Reachable s ∧ (∃ r, s.regs = some r) := by
  intro s
  refine ⟨?_, ⟨?_, ?_, ?_⟩, ?_, ?_, _, rfl⟩
  · intro r h
    cases h
    constructor <;> first | decide | exact ⟨0, by decide, by simp [PassOn]⟩
  · decide
  · decide
  · intro r h
    cases h
    decide
  · exact ⟨_, step_cycle_some (r := resetRegs) (w := 0x10069) rfl (by decide) rfl⟩
  · exact .step (.powerUp (cfg 2) [.stim 0x20000, .stim 0x10069]) (step_reset (w := 0x20000) rfl (by decide))

/-- The words of a pass at `H = 1`: a REFRESH on `v`, then 13 words. -/
def passState (v : Value) (rest : List Request) : State :=
  { blk (regsIn .idle) false 0 (cfg 1) with
    script := .stim (stimWord false true v) :: ((List.replicate 13 (stimWord false true v)).map Request.stim ++ rest) }

/-- The pass statements: a pass starts on every legal value, 0 and 32767 among them, with the 13 words that `H = 1` needs. -/
theorem witness_pass (v : Value) (h : v.toNat ≤ 32767) (rest : List Request) :
    StartsPass (passState v rest) (regsIn .idle) v.toNat (List.replicate 13 (stimWord false true v)) rest ∧
    (List.replicate 13 (stimWord false true v)).length = 4 * (passState v rest).cfg.holdCycles + 9 :=
  ⟨⟨rfl, rfl, h, by simp, _, rfl, by simp, .inl (by simp), by simp⟩, by simp [passState, blk, State.resetWith, cfg]⟩

theorem witness_pass_at_both_ends :
    StartsPass (passState 0 []) (regsIn .idle) 0 (List.replicate 13 (stimWord false true 0)) [] ∧
    StartsPass (passState 0x7FFF []) (regsIn .idle) 32767 (List.replicate 13 (stimWord false true 0x7FFF)) [] :=
  ⟨(witness_pass 0 (by decide) []).1, (witness_pass 0x7FFF (by decide) []).1⟩

/-- RequestsOfAPassMergeIntoOne: the words of the first pass hold thirteen requests, those of the second none. -/
theorem witness_merge :
    let ws := List.replicate 13 (stimWord false true 0)
    let ws' := List.replicate 13 (stimWord false false 7)
    let rest : List Request := .stim (stimWord false false 7) :: (ws'.map Request.stim ++ [])
    StartsPass (passState 0 rest) (regsIn .idle) 0 ws rest ∧ ws.length = 4 * (passState 0 rest).cfg.holdCycles + 9 ∧
      ws.any stimStart = true ∧ stimRst (stimWord false false 7) = false ∧ (stimValue (stimWord false false 7)).toNat = 7 ∧
      ws'.length = 4 * (passState 0 rest).cfg.holdCycles + 9 ∧ (∀ w ∈ ws', stimRst w = false ∧ stimStart w = false) := by
  intro ws ws' rest
  refine ⟨(witness_pass 0 (by decide) rest).1, (witness_pass 0 (by decide) rest).2, by simp [ws], by simp, by simp, ?_, by simp [ws']⟩
  simp [ws', passState, blk, State.resetWith, cfg]

/-- HoldLastsExactlyH: WRITE with the three words that `H = 2` needs, requests all. -/
theorem witness_hold_run :
    ∃ (s : State) (r : Regs) (ws : List (BitVec 18)) (rest : List Request),
      s.regs = some r ∧ r.state = .write ∧ s.script = ws.map Request.stim ++ rest ∧
      (∀ w ∈ ws, stimRst w = false) ∧ ws.length = s.cfg.holdCycles + 1 :=
  ⟨{ blk (regsIn .write) with script := (List.replicate 3 (stimWord false true 7)).map Request.stim ++ [] },
    regsIn .write, List.replicate 3 (stimWord false true 7), [], rfl, rfl, rfl, by simp,
    by simp [blk, State.resetWith, cfg]⟩

/-- PassCommandRunsAWholePass: the script line `PASS 105` in IDLE with PEND 0. -/
theorem witness_pass_command :
    ∃ (s : State) (r : Regs) (v : Nat) (bus : Value) (rest : List Request), s.regs = some r ∧ r.state = .idle ∧
      r.pend = false ∧ v ≤ 32767 ∧
      s.script = (assembleFrom s.cfg.holdCycles bus [.pass v]).map Request.stim ++ rest :=
  ⟨{ blk (regsIn .idle) with script := (assembleFrom (blk (regsIn .idle)).cfg.holdCycles 0 [.pass 105]).map Request.stim ++ [] },
    regsIn .idle, 105, 0, [], rfl, rfl, rfl, by decide, rfl⟩

/-- DigitsFollowTheirEquations, SlotPatternMatchesClosedForm, NonBlankSlotsAreSignificantDigits, NoStrayLeadingZero,
PassLeavesDigitCountAndResidue: values and slots at the ends of each range. -/
theorem witness_ranges :
    (0 : Nat) ≤ 999 ∧ (999 : Nat) ≤ 999 ∧ (9999 : Nat) ≤ 9999 ∧ (32767 : Nat) ≤ 32767 ∧ (3 : Nat) < 4 ∧
    significantDigits 0 ≤ 1 ∧ significantDigits 999 ≤ 3 ∧ digitCount 9 = 1 ∧ digitCount 10 = 2 ∧ digitCount 10000 = 5 := by
  decide

end Sys2Proof.Tests
end

section
/-! PROOFS. The outputs (R28, R29): what a flag reads, and that reading the outputs looks at the registers alone. -/

namespace Sys2Proof.Machine

@[simp] theorem busyFlag_eq_true {r : Regs} : busyFlag r = true ↔ r.state ≠ .idle :=
  decide_eq_true_iff

@[simp] theorem faultFlag_eq_true {r : Regs} : faultFlag r = true ↔ r.state = .fault :=
  decide_eq_true_iff

/-- Once the registers hold values, the outputs are those of the registers, whatever else the state holds. -/
theorem readOutputs_some {s : State} {r : Regs} (h : s.regs = some r) : readOutputs s = .ok (outputsOf r) := by
  simp [readOutputs, h]

/-- Settles O23: with other inputs the registers are the same, and `readOutputs_some` reads them alone. -/
theorem outputsReadTheRegisters : Obligations.OutputsReadTheRegisters := by
  intro s r inp h
  have hinp : ({ s with inputs := inp } : State).regs = some r := h
  have hfcode {c : FaultCode} (hc : r.fcode = c) : (outputsOf r).fcode = fcodeBits c := congrArg fcodeBits hc
  exact ⟨outputsOf r, readOutputs_some h, readOutputs_some hinp, rfl, rfl, busyFlag_eq_true, faultFlag_eq_true, rfl,
    hfcode, hfcode, hfcode, hfcode⟩

end Sys2Proof.Machine
end

section
/-! PROOFS. STIM decoding (R48), one equation per command, and the IDLE cycle that starts a pass (R78). -/

namespace Sys2Proof.Machine

variable {w : BitVec 18}

theorem decodeStim_reset (hrst : stimRst w = true) : decodeStim w = .reset :=
  if_pos hrst

theorem decodeStim_refresh (hrst : stimRst w = false) (hstart : stimStart w = true) :
    decodeStim w = .refresh (stimValue w) := by
  simp [decodeStim, hrst, hstart]

theorem decodeStim_nop (hrst : stimRst w = false) (hstart : stimStart w = false) :
    decodeStim w = .nop (stimValue w) := by
  simp [decodeStim, hrst, hstart]

theorem negative_eq_false {v : Value} (h : v.toNat ≤ 32767) : negative v = false := by
  rw [← Bool.not_eq_true, negative_iff]
  omega

/-- A cycle in IDLE with a request, new or pending, starts a pass on its value, if that is not negative (R78). -/
theorem cycleEffect_idle_starts {c : Config} {t : Nat} {inp : Inputs} {r : Regs} (hidle : r.state = .idle)
    (hreq : (inp.start || r.pend) = true) (hv : inp.value.toNat ≤ 32767) :
    cycleEffect c t inp r =
      ⟨{ r with w := inp.value, slot := 0, ndig := 0, pend := false, state := .select }, []⟩ := by
  simp [cycleEffect_idle hidle, idleEffect, hreq, negative_eq_false hv]

/-- Settles O2: each word's fields pick its command, and the pending request makes the NOP cycle in IDLE start a pass. -/
theorem stimDecodesByRstThenStart : Obligations.StimDecodesByRstThenStart := by
  refine ⟨fun w hrst => congrArg Except.ok (decodeStim_reset hrst),
    fun w hrst hstart => congrArg Except.ok (decodeStim_refresh hrst hstart),
    fun w hrst hstart => congrArg Except.ok (decodeStim_nop hrst hstart), ?_⟩
  intro s r v hs hidle hpend hv
  have hstarts := cycleEffect_idle_starts (c := s.cfg) (t := s.cycle) (inp := ⟨false, v⟩) hidle hpend hv
  exact ⟨_, _, runCycle_some false v hs, congrArg (fun e : Effect => some e.regs) hstarts, rfl, rfl⟩

end Sys2Proof.Machine
end

section
/-! PROOFS. The encoder's table (R62 to R66): which operands have an entry, and that no byte SEG takes lights the
decimal point. -/

namespace Sys2Proof.Machine

/-- The table has ten entries (R25), so the digits 10 to 15 are those without a byte (R62). -/
theorem encLookup_eq_none_iff {d : BitVec 4} : encLookup d = none ↔ 10 ≤ d.toNat := by
  simp [encLookup]

/-- Settles O50: ten entries to read off the table, none from 10 on, and ten short lists of segments to evaluate. -/
theorem encoderTableBytesAndSegments : Obligations.EncoderTableBytesAndSegments := by
  refine ⟨rfl, rfl, rfl, rfl, rfl, rfl, rfl, rfl, rfl, rfl, fun _ hd => encLookup_eq_none_iff.mpr hd, ?_⟩
  decide

/-- An invariant of the registers that holds after reset and that every cycle with `rst = 0` keeps holds of the registers of
every reachable state: lookups leave the registers alone, and a loss of power empties them. -/
theorem Reachable.regs_induction {P : Config → Regs → Prop} (hreset : ∀ c, P c resetRegs)
    (hcycle : ∀ c t inp r, P c r → P c (cycleEffect c t inp r).regs) {s : State} (hs : Reachable s) :
    ∀ r, s.regs = some r → P s.cfg r := by
  induction hs with
  | powerUp c script => exact fun _ h => nomatch h
  | step _ hstep ih =>
    intro u hu
    obtain ⟨w, -, -, rfl⟩ | ⟨w, r, -, -, hr, rfl⟩ | ⟨d, p, -, -, rfl⟩ | ⟨-, rfl⟩ := step_cases hstep
    · obtain rfl : resetRegs = u := Option.some.inj hu
      exact hreset _
    · obtain rfl := Option.some.inj hu
      exact hcycle _ _ _ _ (ih r hr)
    · exact ih u hu
    · cases hu

/-- The bytes that SEG may hold (R32 (i)): blank, or an entry of the table. -/
def SegByte (p : Byte) : Prop := p = blankByte ∨ ∃ d, p = encDigit d

/-- What a slot shows is blank or a digit (R76). -/
theorem segByte_slotPattern (w : Value) (i : Nat) : SegByte (slotPattern w i) := by
  simp only [slotPattern]
  split
  · split
    · exact .inl rfl
    · exact .inr ⟨_, rfl⟩
  · split
    · exact .inr ⟨_, rfl⟩
    · exact .inl rfl

/-- WRITE and a fault entry set SEG; no other operation touches it. -/
theorem segByte_cycleEffect {c : Config} {t : Nat} {inp : Inputs} {r : Regs} (h : SegByte r.seg) :
    SegByte (cycleEffect c t inp r).regs.seg := by
  cases hst : r.state with
  | idle =>
    rw [cycleEffect_idle hst, idleEffect]
    split
    · split
      · exact .inl rfl
      · exact h
    · exact h
  | select => rwa [cycleEffect_select hst]
  | write => rw [cycleEffect_write hst]; exact segByte_slotPattern _ _
  | hold =>
    rw [cycleEffect_hold hst, holdEffect]
    split <;> exact h
  | advance => rwa [cycleEffect_advance hst]
  | rsv5 => rw [cycleEffect_reserved (.inl hst)]; exact .inl rfl
  | rsv6 => rw [cycleEffect_reserved (.inr hst)]; exact .inl rfl
  | fault => rwa [cycleEffect_fault hst]

/-- R32 (i). -/
theorem Reachable.segByte {s : State} {r : Regs} (hs : Reachable s) (hr : s.regs = some r) : SegByte r.seg :=
  hs.regs_induction (P := fun _ r => SegByte r.seg) (fun _ => .inl rfl) (fun _ _ _ _ => segByte_cycleEffect) r hr

theorem encDigit_bit7 : ∀ d : Fin 10, (encDigit d).getLsbD 7 = true := by decide

/-- The decimal point is bit 7, active low (R51). -/
theorem segmentLit_dp_eq_false_iff {p : Byte} : segmentLit p .dp = false ↔ p.getLsbD 7 = true := by
  simp [segmentLit, segmentBit]

/-- Settles O35: bit 7 is 1 in the table and in the blank byte, and SEG holds nothing else. -/
theorem decimalPointIsNeverLit : Obligations.DecimalPointIsNeverLit := by
  refine ⟨encDigit_bit7, fun s r hs hr => segmentLit_dp_eq_false_iff.mpr ?_⟩
  obtain hblank | ⟨d, hd⟩ := hs.segByte hr
  · rw [hblank]; rfl
  · rw [hd]; exact encDigit_bit7 d

end Sys2Proof.Machine
end

section
/-! PROOFS. The extractor and the digits of a number (R68 to R71): the model's digits are Mathlib's, so that their count and their
weighted sum are the library's. -/

namespace Sys2Proof.Machine

/-- With fuel enough for the value, the digits of R69 are the library's digits in base ten. -/
theorem digitsUpTo_eq_natDigits {fuel v : Nat} (h : v ≤ fuel) : digitsUpTo fuel v = Nat.digits 10 v := by
  induction fuel generalizing v with
  | zero =>
    obtain rfl : v = 0 := Nat.le_zero.mp h
    rfl
  | succ fuel ih =>
    by_cases hv : v = 0
    · simp [digitsUpTo, hv]
    · have hpos : 0 < v := Nat.pos_of_ne_zero hv
      rw [Nat.digits_def' (by decide) hpos, digitsUpTo, if_neg hv, ih (by omega)]

theorem digits_eq_natDigits (v : Nat) : digits v = Nat.digits 10 v :=
  digitsUpTo_eq_natDigits le_rfl

theorem weightedSum_eq_ofDigits (ds : List Nat) (i : Nat) : weightedSum i ds = 10 ^ i * Nat.ofDigits 10 ds := by
  induction ds generalizing i with
  | nil => rfl
  | cons d ds ih =>
    rw [weightedSum, ih, Nat.ofDigits_cons]
    ring

/-- R71 read upwards: there is a digit `i` when the value reaches `10^i`. -/
theorem lt_digitCount_iff {i v : Nat} : i < digitCount v ↔ 10 ^ i ≤ v := by
  rw [digitCount, digits_eq_natDigits, Nat.lt_digits_length_iff (by decide)]

/-- R71: the values with `i + 1` digits are those from `10^i` to below `10^(i+1)`. -/
theorem digitCount_eq_succ {i v : Nat} (hlow : 10 ^ i ≤ v) (hhigh : v < 10 ^ (i + 1)) : digitCount v = i + 1 := by
  have hlt : i < digitCount v := lt_digitCount_iff.mpr hlow
  have hle : ¬ i + 1 < digitCount v := fun h => absurd (lt_digitCount_iff.mp h) (by omega)
  omega

/-- Settles O44: the three results of `extStep` as natural numbers, and `extStep 0` evaluated. -/
theorem extractorDividesByTen : Obligations.ExtractorDividesByTen := by
  intro w
  refine ⟨extStep_valid_iff w, rfl, extStep_next_toNat w, ?_⟩
  rintro rfl
  exact ⟨rfl, rfl⟩

/-- Settles O46: the weighted sum from exponent 0 is `Nat.ofDigits`, which undoes `Nat.digits`. -/
theorem digitsReassembleTheNumber : Obligations.DigitsReassembleTheNumber := by
  refine ⟨fun v => ?_, rfl⟩
  rw [weightedSum_eq_ofDigits, digits_eq_natDigits, Nat.ofDigits_digits, pow_zero, one_mul]

end Sys2Proof.Machine
end

section
/-! PROOFS. The byte of a slot: PATTERN (R76) on the working value of a pass is the closed form of R77. -/

namespace Sys2Proof.Machine

variable {v i : Nat}

/-- The working value of slot `i` fits W (R32 (f)). -/
theorem toNat_workingValue (hv : v ≤ 32767) : (BitVec.ofNat 16 (v / 10 ^ i)).toNat = v / 10 ^ i := by
  have : v / 10 ^ i ≤ v := Nat.div_le_self _ _
  rw [BitVec.toNat_ofNat, Nat.mod_eq_of_lt (by omega)]

/-- Slot `i` finds a digit of the value, W being not exhausted, when the value has more than `i` digits (R69). -/
theorem extStep_valid_workingValue (hv : v ≤ 32767) :
    (extStep (BitVec.ofNat 16 (v / 10 ^ i))).valid = true ↔ i < digitCount v := by
  rw [extStep_valid_iff, toNat_workingValue hv, lt_digitCount_iff, Nat.div_ne_zero_iff]
  simp

theorem extStep_digit_workingValue (hv : v ≤ 32767) :
    (extStep (BitVec.ofNat 16 (v / 10 ^ i))).digit = digitAt v i :=
  congrArg lowDigit (toNat_workingValue hv)

/-- One extraction takes the working value of slot `i` to that of slot `i + 1` (R68). -/
theorem extStep_next_workingValue (hv : v ≤ 32767) :
    (extStep (BitVec.ofNat 16 (v / 10 ^ i))).next = BitVec.ofNat 16 (v / 10 ^ (i + 1)) := by
  apply BitVec.eq_of_toNat_eq
  rw [extStep_next_toNat, toNat_workingValue hv, toNat_workingValue hv, Nat.div_div_eq_div_mul, pow_succ]

theorem digitAt_eq_zero_iff : digitAt v i = 0 ↔ v / 10 ^ i % 10 = 0 :=
  Fin.ext_iff

/-- R77: past the last digit of the value slot 0 shows a zero and the others show nothing. -/
theorem passByte_past_digits (hi : i < 4) (h : v < 10 ^ i) :
    passByte v i = if i = 0 then encDigit 0 else blankByte := by
  have hzero : (0xC0 : Byte) = encDigit 0 := rfl
  interval_cases i <;> grind [passByte]

/-- R77: slots 0 to 2 show a digit of the value whatever it is. -/
theorem passByte_digit (hi : i < 3) (h : 10 ^ i ≤ v) : passByte v i = encDigit (digitAt v i) := by
  interval_cases i <;> grind [passByte]

/-- R77: slot 3 shows the thousands digit, but no zero; below 10000 that digit is the leading one. -/
theorem passByte_thousands (h : 1000 ≤ v) :
    passByte v 3 = if digitAt v 3 = 0 then blankByte else encDigit (digitAt v 3) := by
  have hleading : v ≤ 9999 → digitAt v 3 ≠ 0 := by
    rw [Ne, digitAt_eq_zero_iff]
    omega
  grind [passByte]

/-- R76 gives the table of R77: the cases are the exhausted slot, the slot with a digit, and slot 3 with its zero. -/
theorem slotPattern_workingValue (hv : v ≤ 32767) (hi : i < 4) :
    slotPattern (BitVec.ofNat 16 (v / 10 ^ i)) i = passByte v i := by
  simp only [slotPattern, extStep_valid_workingValue hv, lt_digitCount_iff, extStep_digit_workingValue hv]
  by_cases hdigit : 10 ^ i ≤ v
  · rw [if_pos hdigit]
    by_cases hthree : i = 3
    · subst hthree
      simp [passByte_thousands hdigit]
    · rw [if_neg (by simp [hthree]), passByte_digit (by omega) hdigit]
  · rw [if_neg hdigit, passByte_past_digits hi (by omega)]

end Sys2Proof.Machine
end

section
/-! PROOFS. A run of cycles without reset, on the registers alone (R83): what the words do to them and the entries they emit. The
state is looked at once, in `stepN_words`. -/

namespace Sys2Proof.Machine

/-- The registers after the cycles of some words, none a reset, the first in cycle `t`, and the entries emitted on the way. -/
def runCycles (c : Config) : Nat → Regs → List (BitVec 18) → Regs × List Event
  | _, r, [] => (r, [])
  | t, r, w :: ws =>
    let e := cycleEffect c t ⟨stimStart w, stimValue w⟩ r
    let rest := runCycles c (t + 1) e.regs ws
    (rest.1, stampWrites t e.writes ++ rest.2)

/-- `s` is `k` cycles on a run of `s₀` that made the registers `out.1` and emitted `out.2`, with the script at `rest`. -/
structure RanCycles (s₀ : State) (k : Nat) (out : Regs × List Event) (rest : List Request) (s : State) : Prop where
  regs : s.regs = some out.1
  trace : s.trace = s₀.trace ++ out.2
  cfg : s.cfg = s₀.cfg
  cycle : s.cycle = s₀.cycle + k
  script : s.script = rest

/-- The steps of a script that begins with these words are the cycles of `runCycles`. -/
theorem stepN_words {ws : List (BitVec 18)} {s : State} {r : Regs} {rest : List Request} (hregs : s.regs = some r)
    (hscript : s.script = ws.map Request.stim ++ rest) (hrst : ∀ w ∈ ws, stimRst w = false) :
    ∃ t, stepN ws.length s = .next t ∧ RanCycles s ws.length (runCycles s.cfg s.cycle r ws) rest t := by
  induction ws generalizing s r with
  | nil => exact ⟨s, rfl, hregs, (List.append_nil _).symm, rfl, rfl, hscript⟩
  | cons w ws ih =>
    obtain ⟨hw, hws⟩ := List.forall_mem_cons.mp hrst
    have hreq : (nextRequest s).1 = .stim w := congrArg Prod.fst (nextRequest_cons hscript)
    obtain ⟨t, hrun, ht⟩ := ih (s := afterCycle w r s) rfl (dropRequest_script_cons hscript) hws
    refine ⟨t, (stepN_succ (step_cycle_some hreq hw hregs)).trans hrun, ht.regs, ?_, ht.cfg, ?_, ht.script⟩
    · rw [ht.trace]
      exact List.append_assoc _ _ _
    · rw [ht.cycle]
      exact Nat.add_right_comm _ _ _

variable {c : Config} {t : Nat} {r : Regs}

/-- One cycle, and the run of the words after it. -/
theorem runCycles_cons {w : BitVec 18} {ws : List (BitVec 18)} {e : Effect} {out : Regs × List Event}
    (hcycle : cycleEffect c t ⟨stimStart w, stimValue w⟩ r = e) (hrest : runCycles c (t + 1) e.regs ws = out) :
    runCycles c t r (w :: ws) = (out.1, stampWrites t e.writes ++ out.2) := by
  subst hcycle hrest
  rfl

/-- Two runs, one after the other. -/
theorem runCycles_append {ws ws' : List (BitVec 18)} {u : Regs} {es : List Event} {out : Regs × List Event}
    (hfirst : runCycles c t r ws = (u, es)) (hsecond : runCycles c (t + ws.length) u ws' = out) :
    runCycles c t r (ws ++ ws') = (out.1, es ++ out.2) := by
  induction ws generalizing t r es with
  | nil =>
    obtain ⟨rfl, rfl⟩ := Prod.mk.inj hfirst
    exact hsecond
  | cons w ws ih =>
    obtain ⟨rfl, rfl⟩ := Prod.mk.inj hfirst
    rw [List.length_cons, ← Nat.add_assoc, Nat.add_right_comm] at hsecond
    rw [List.cons_append, runCycles_cons rfl (ih rfl hsecond), List.append_assoc]

/-- HOLD with HT at `n` lasts `n + 1` cycles, whatever the words, and emits nothing (R81, R128). -/
theorem runCycles_hold {ws : List (BitVec 18)} (hstate : r.state = .hold) (hlen : ws.length = r.ht + 1) :
    runCycles c t r ws = ({ r with state := .advance, ht := 0, pend := r.pend || ws.any stimStart }, []) := by
  induction ws generalizing t r with
  | nil => cases hlen
  | cons w ws ih =>
    rw [runCycles, cycleEffect_hold hstate, holdEffect]
    by_cases hzero : r.ht = 0
    · obtain rfl : ws = [] := List.eq_nil_of_length_eq_zero (by simpa [hzero] using hlen)
      simp [hzero, runCycles, stampWrites]
    · have hrest : ws.length = r.ht - 1 + 1 := by
        rw [List.length_cons] at hlen
        omega
      simp [hzero, ih (r := { r with pend := r.pend || stimStart w, ht := r.ht - 1 }) hstate hrest, stampWrites, Bool.or_assoc]

theorem runCycles_advance {w : BitVec 18} (hstate : r.state = .advance) :
    runCycles c t r [w] =
      ((advanceEffect { r with pend := r.pend || stimStart w }).regs, [⟨t, .sel, shiftSel r.sel⟩]) :=
  runCycles_cons (cycleEffect_advance hstate) rfl

/-- The registers at the end of a slot, from those at its WRITE in cycle `t`; `b` tells whether a `start` came (R80 to R82). -/
def afterSlotRegs (t : Nat) (b : Bool) (r : Regs) : Regs where
  state := afterSlot r.slot
  slot := nextSlot r.slot
  w := (extStep r.w).next
  ht := 0
  ndig := if (extStep r.w).valid then countDigit t r.ndig else r.ndig
  pend := r.pend || b
  fcode := r.fcode
  seg := slotPattern r.w (slotIndex r.slot)
  sel := shiftSel r.sel

/-- The two entries of a slot written in cycle `t`: the pattern at once, the shifted SEL after the `H` cycles of HOLD. -/
def slotEvents (c : Config) (t : Nat) (r : Regs) : List Event :=
  [⟨t, .seg, slotPattern r.w (slotIndex r.slot)⟩, ⟨t + c.holdCycles + 1, .sel, shiftSel r.sel⟩]

/-- A slot takes `H + 2` cycles (R130): WRITE, `H` of HOLD, and ADVANCE. -/
theorem runCycles_slot {ws : List (BitVec 18)} (hstate : r.state = .write) (hlen : ws.length = c.holdCycles + 2) :
    runCycles c t r ws = (afterSlotRegs t (ws.any stimStart) r, slotEvents c t r) := by
  obtain ⟨w, ws, rfl⟩ := List.exists_cons_of_length_eq_add_one hlen
  obtain ⟨hs, a, rfl⟩ : ∃ hs a, ws = hs ++ [a] :=
    (List.eq_nil_or_concat' ws).resolve_left (List.ne_nil_of_length_eq_add_one (Nat.succ.inj hlen))
  have hhold : hs.length = c.holdCycles := by simpa using hlen
  have hload : hs.length = holdLoad c + 1 := by
    have := c.hold_pos
    rw [holdLoad_eq]
    omega
  rw [runCycles_cons (cycleEffect_write hstate) (runCycles_append (runCycles_hold rfl hload) (runCycles_advance rfl))]
  simp [advanceEffect, writeEffect, stampWrites, afterSlotRegs, slotEvents, hhold, Bool.or_assoc,
    Nat.add_right_comm]

end Sys2Proof.Machine
end

section
/-! PROOFS. A whole pass (R72, R85, R126): the registers in front of each slot in closed form, reached slot by slot. -/

namespace Sys2Proof.Machine

/-- The registers of a pass on `v` when `i` of its slots are over, at the next WRITE or, after four, in IDLE: `r` are those it
started from, and `p` tells whether a `start` came since (R32, R71, R126). -/
def passRegs (v i : Nat) (p : Bool) (r : Regs) : Regs where
  state := if i < 4 then .write else .idle
  slot := BitVec.ofNat 2 i
  w := BitVec.ofNat 16 (v / 10 ^ i)
  ht := if i = 0 then r.ht else 0
  ndig := BitVec.ofNat 3 (min (digitCount v) i)
  pend := p
  fcode := r.fcode
  seg := if i = 0 then r.seg else passByte v (i - 1)
  sel := selStart >>> i

/-- The entries of the first `i` slots of a pass on `v`, slot 0 written in cycle `t` (R85). -/
def slotsEvents (h t v i : Nat) : List Event :=
  (List.range i).flatMap fun j =>
    [⟨t + j * (h + 2), .seg, passByte v j⟩, ⟨t + j * (h + 2) + h + 1, .sel, selStart >>> (j + 1)⟩]

variable {c : Config} {t v i : Nat} {p b : Bool} {r : Regs}

theorem passRegs_ndig_toNat (hi : i ≤ 4) : (passRegs v i p r).ndig.toNat = min (digitCount v) i :=
  Nat.mod_eq_of_lt (by omega)

theorem slotIndex_passRegs (hi : i < 4) : slotIndex (passRegs v i p r).slot = i :=
  Nat.mod_eq_of_lt hi

theorem afterSlot_passRegs (hi : i < 4) :
    afterSlot (passRegs v i p r).slot = (passRegs v (i + 1) (p || b) r).state := by
  have hlast : i = 3 ↔ ¬ i + 1 < 4 := by omega
  rw [afterSlot, slotIndex_passRegs hi]
  simp only [hlast, ite_not, passRegs]

theorem nextSlot_passRegs : nextSlot (passRegs v i p r).slot = (passRegs v (i + 1) (p || b) r).slot := by
  apply BitVec.eq_of_toNat_eq
  simp [nextSlot_toNat, passRegs]

theorem extStep_next_passRegs (hv : v ≤ 32767) :
    (extStep (passRegs v i p r).w).next = (passRegs v (i + 1) (p || b) r).w :=
  extStep_next_workingValue hv

/-- A slot counts a digit when the value has one for it (R71, R80). -/
theorem ndig_passRegs_succ (hv : v ≤ 32767) (hi : i < 4) :
    (if (extStep (passRegs v i p r).w).valid then countDigit t (passRegs v i p r).ndig else (passRegs v i p r).ndig) =
      (passRegs v (i + 1) (p || b) r).ndig := by
  have hnow : (passRegs v i p r).ndig.toNat = min (digitCount v) i := passRegs_ndig_toNat (by omega)
  have hvalid : (extStep (passRegs v i p r).w).valid = true ↔ i < digitCount v := extStep_valid_workingValue hv
  apply BitVec.eq_of_toNat_eq
  rw [passRegs_ndig_toNat (by omega)]
  by_cases hdigit : i < digitCount v
  · rw [if_pos (hvalid.mpr hdigit), countDigit_toNat (by omega)]
    omega
  · rw [if_neg (hvalid.not.mpr hdigit)]
    omega

theorem slotPattern_passRegs (hv : v ≤ 32767) (hi : i < 4) :
    slotPattern (passRegs v i p r).w (slotIndex (passRegs v i p r).slot) = passByte v i := by
  rw [slotIndex_passRegs hi]
  exact slotPattern_workingValue hv hi

theorem shiftSel_passRegs : shiftSel (passRegs v i p r).sel = selStart >>> (i + 1) :=
  (BitVec.shiftRight_add _ _ _).symm

/-- One more slot takes the closed form for `i` slots to that for `i + 1`. -/
theorem afterSlotRegs_passRegs (hv : v ≤ 32767) (hi : i < 4) :
    afterSlotRegs t b (passRegs v i p r) = passRegs v (i + 1) (p || b) r := by
  rw [afterSlotRegs, afterSlot_passRegs (b := b) hi, nextSlot_passRegs (b := b), ndig_passRegs_succ (b := b) hv hi,
    slotPattern_passRegs hv hi, shiftSel_passRegs, extStep_next_passRegs (b := b) hv]
  rfl

theorem slotEvents_passRegs (hv : v ≤ 32767) (hi : i < 4) :
    slotEvents c t (passRegs v i p r) =
      [⟨t, .seg, passByte v i⟩, ⟨t + c.holdCycles + 1, .sel, selStart >>> (i + 1)⟩] := by
  rw [slotEvents, slotPattern_passRegs hv hi, shiftSel_passRegs]

/-- The first `i` slots of a pass take `i * (H + 2)` cycles (R130). -/
theorem runCycles_slots (hv : v ≤ 32767) (hi : i ≤ 4) {ws : List (BitVec 18)}
    (hlen : ws.length = i * (c.holdCycles + 2)) :
    runCycles c t (passRegs v 0 p r) ws =
      (passRegs v i (p || ws.any stimStart) r, slotsEvents c.holdCycles t v i) := by
  induction i generalizing ws with
  | zero =>
    obtain rfl : ws = [] := List.eq_nil_of_length_eq_zero (by simpa using hlen)
    simp [runCycles, slotsEvents]
  | succ i ih =>
    rw [Nat.succ_mul] at hlen
    obtain ⟨first, slot, rfl, hfirst⟩ : ∃ first slot, ws = first ++ slot ∧ first.length = i * (c.holdCycles + 2) :=
      ⟨_, _, (List.take_append_drop _ ws).symm, List.length_take_of_le (by omega)⟩
    have hslot : slot.length = c.holdCycles + 2 := by
      rw [List.length_append] at hlen
      omega
    have hwrite : (passRegs v i (p || first.any stimStart) r).state = .write := if_pos (by omega)
    rw [runCycles_append (ih (by omega) hfirst) (runCycles_slot hwrite hslot)]
    simp [afterSlotRegs_passRegs hv hi, slotEvents_passRegs hv hi, slotsEvents, List.range_succ, Bool.or_assoc, hfirst]

/-- From the IDLE cycle that starts it to the end of its slot `i`, a pass runs as its closed forms say (R78, R79). -/
theorem runCycles_pass {w₀ w₁ : BitVec 18} {ws : List (BitVec 18)} (hidle : r.state = .idle)
    (hreq : (stimStart w₀ || r.pend) = true) (hv : (stimValue w₀).toNat ≤ 32767) (hi : i ≤ 4)
    (hlen : ws.length = i * (c.holdCycles + 2)) :
    runCycles c t r (w₀ :: w₁ :: ws) =
      (passRegs (stimValue w₀).toNat i ((w₁ :: ws).any stimStart) r,
        ⟨t + 1, .sel, selStart⟩ :: slotsEvents c.holdCycles (t + 2) (stimValue w₀).toNat i) := by
  have hslots := runCycles_slots (t := t + 1 + 1) (p := stimStart w₁) (r := r) hv hi hlen
  have hselect : cycleEffect c (t + 1) ⟨stimStart w₁, stimValue w₁⟩
      { r with w := stimValue w₀, slot := 0, ndig := 0, pend := false, state := .select } =
        ⟨passRegs (stimValue w₀).toNat 0 (stimStart w₁) r, [(.sel, selStart)]⟩ := by
    rw [cycleEffect_select rfl]
    simp [selectEffect, passRegs]
  exact runCycles_cons (cycleEffect_idle_starts hidle hreq hv) (runCycles_cons hselect hslots)

/-- A started pass, up to the end of its slot `i`, for every `H` and whatever the host drives but reset. -/
theorem StartsPass.ran {s : State} {ws : List (BitVec 18)} {rest : List Request} (h : StartsPass s r v ws rest) (hi : i ≤ 4)
    (hlen : ws.length = i * (s.cfg.holdCycles + 2) + 1) :
    ∃ t, stepN (i * (s.cfg.holdCycles + 2) + 2) s = .next t ∧
      RanCycles s (i * (s.cfg.holdCycles + 2) + 2)
        (passRegs v i (ws.any stimStart) r,
          ⟨s.cycle + 1, .sel, selStart⟩ :: slotsEvents s.cfg.holdCycles (s.cycle + 2) v i) rest t := by
  obtain ⟨hregs, hidle, hv, hrst, w₀, hscript, hrst₀, hreq, rfl⟩ := h
  obtain ⟨w₁, ws, rfl⟩ := List.exists_cons_of_length_eq_add_one hlen
  have hslots : ws.length = i * (s.cfg.holdCycles + 2) := Nat.succ.inj hlen
  have hrun := stepN_words (ws := w₀ :: w₁ :: ws) hregs hscript (List.forall_mem_cons.mpr ⟨hrst₀, hrst⟩)
  rwa [runCycles_pass hidle (by simpa using hreq) hv hi hslots, List.length_cons, hlen] at hrun

/-- Settles O40: the ranges are those between powers of ten, and the registers are the closed form at four slots. -/
theorem passLeavesDigitCountAndResidue : Obligations.PassLeavesDigitCountAndResidue := by
  refine ⟨⟨rfl, ?_, ?_, ?_, ?_, ?_⟩, ?_⟩
  · exact fun v hlow hhigh => digitCount_eq_succ (i := 0) hlow (by omega)
  · exact fun v hlow hhigh => digitCount_eq_succ (i := 1) hlow (by omega)
  · exact fun v hlow hhigh => digitCount_eq_succ (i := 2) hlow (by omega)
  · exact fun v hlow hhigh => digitCount_eq_succ (i := 3) hlow (by omega)
  · exact fun v hlow hhigh => digitCount_eq_succ (i := 4) hlow (by omega)
  · intro s r v ws rest hpass hlen
    obtain ⟨t, hrun, ht⟩ := hpass.ran le_rfl (by omega)
    obtain ⟨-, -, hv, -⟩ := hpass
    exact ⟨t, _, hrun, ht.regs, passRegs_ndig_toNat le_rfl, toNat_workingValue hv, rfl, rfl, rfl, rfl, rfl, rfl, rfl⟩

end Sys2Proof.Machine
end

section
/-! PROOFS. The micro-operations of IDLE, SELECT, WRITE and ADVANCE (R78 to R80, R82), each by the cases of its own rule. -/

namespace Sys2Proof.Machine

variable {s : State} {r : Regs} {inp : Inputs} {e : Effect}

/-- Committing an operation of the registers touches the registers and the trace alone. -/
theorem sameSurroundings_commit : SameSurroundings s (commit e s) :=
  ⟨rfl, rfl, rfl, rfl, rfl⟩

theorem idleEffect_waits (hstart : inp.start = false) (hpend : r.pend = false) : idleEffect inp r = ⟨r, []⟩ := by
  simp [idleEffect, hstart, hpend]

theorem idleEffect_starts (hreq : inp.start = true ∨ r.pend = true) (hv : negative inp.value = false) :
    idleEffect inp r = ⟨{ r with w := inp.value, slot := 0, ndig := 0, pend := false, state := .select }, []⟩ := by
  simp [idleEffect, hreq, hv]

theorem idleEffect_faults (hreq : inp.start = true ∨ r.pend = true) (hv : negative inp.value = true) :
    idleEffect inp r = faultEffect .negValue r := by
  simp [idleEffect, hreq, hv]

/-- Settles O14: the three clauses are the three equations of `idleEffect`. -/
theorem idleWaitsStartsOrFaults : Obligations.IdleWaitsStartsOrFaults := by
  refine ⟨rfl, fun s r hs => ⟨_, _, onRegs_some hs, rfl, sameSurroundings_commit, ?_, ?_, ?_⟩⟩
  · intro hstart hpend
    rw [idleEffect_waits hstart hpend]
    exact ⟨rfl, List.append_nil _⟩
  · intro hreq hv
    rw [idleEffect_starts hreq hv]
    exact ⟨rfl, List.append_nil _, rfl⟩
  · intro hreq hv
    rw [idleEffect_faults hreq hv]
    exact ⟨rfl, rfl⟩

/-- Settles O15: SELECT has one case, and it is what `selectEffect` says. -/
theorem selectSetsStartingPosition : Obligations.SelectSetsStartingPosition :=
  ⟨rfl, fun _ _ hs => ⟨_, onRegs_some hs, sameSurroundings_commit, rfl, rfl⟩⟩

/-- PATTERN on the number that W holds (R76). -/
theorem slotPattern_eq (w : Value) (i : Nat) :
    slotPattern w i =
      if w.toNat ≠ 0 then
        (if i = 3 ∧ w.toNat % 10 = 0 then blankByte else encDigit (lowDigit w.toNat))
      else if i = 0 then encDigit 0 else blankByte := by
  have hdigit : (extStep w).digit = lowDigit w.toNat := rfl
  have hzero : lowDigit w.toNat = 0 ↔ w.toNat % 10 = 0 := Fin.ext_iff
  simp only [slotPattern, extStep_valid_iff, hdigit, hzero]

/-- Settles O16: the byte is `slotPattern_eq`, the rest what each unit of the datapath computes. -/
theorem writeTakesOneDigit : Obligations.WriteTakesOneDigit := by
  refine ⟨rfl, fun s r hs => ⟨_, _, _, onRegs_some hs, sameSurroundings_commit, rfl, slotPattern_eq r.w r.slot.toNat,
    rfl, rfl, extStep_next_toNat r.w, holdLoad_eq s.cfg, rfl, ?_, ?_, rfl, rfl, rfl, rfl⟩⟩
  · intro hw hndig
    have hcounts : (writeEffect s.cfg s.cycle r).regs.ndig = countDigit s.cycle r.ndig :=
      if_pos ((extStep_valid_iff r.w).mpr hw)
    rw [hcounts, countDigit_toNat hndig]
  · intro hw
    exact if_neg fun hvalid => (extStep_valid_iff r.w).mp hvalid hw

/-- Settles O18: the cases are the last slot and the three before it. -/
theorem advanceShiftsOnePosition : Obligations.AdvanceShiftsOnePosition := by
  refine ⟨rfl, fun s r hs => ⟨_, _, onRegs_some hs, sameSurroundings_commit, rfl, rfl, rfl, nextSlot_toNat r.slot,
    ?_, afterSlot_inner, rfl, rfl, rfl, rfl, rfl, rfl⟩⟩
  intro hlast
  have hidle : (advanceEffect r).regs.state = .idle := afterSlot_last hlast
  exact ⟨hidle, by simp [busyFlag, hidle]⟩

end Sys2Proof.Machine
end

section
/-! PROOFS. The cycle on a STIM word (R83): RESET, or the state's own micro-operation on the latched registers. -/

namespace Sys2Proof.Machine

variable {s : State} {r : Regs} {w : BitVec 18} {rest : List Request}

/-- What a cycle on the word `w` reads: the levels that `w` drives, the request taken off the script. -/
theorem sampleInputs_dropRequest (hscript : s.script = .stim w :: rest) :
    sampleInputs w (dropRequest s) = { s with script := rest, inputs := ⟨stimStart w, stimValue w⟩ } := by
  rw [dropRequest, nextRequest_cons hscript]
  rfl

/-- A cycle with `rst = 0`, on what it reads (R83). -/
theorem step_cycle_eq_commit (h : (nextRequest s).1 = .stim w) (hrst : stimRst w = false) (hs : s.regs = some r) :
    step s = .next (endCycle (commit (cycleEffect s.cfg s.cycle ⟨stimStart w, stimValue w⟩ r)
      (sampleInputs w (dropRequest s)))) :=
  step_cycle_some h hrst hs

/-- The micro-operation that STATE selects performs the state's register transfer (R46). -/
theorem exec_microInstr (h : s.regs = some r) :
    exec (microInstr r.state) s = .next (commit (stateEffect s.cfg s.cycle s.inputs r) s) :=
  (microOp_eq_exec h).symm.trans (microOp_some h)

/-- On the latched registers, the micro-operation does all that the cycle does before it ends (R83). -/
theorem exec_microInstr_latched (s : State) (r : Regs) :
    exec (microInstr r.state) { s with regs := some (latchRegs s.inputs r) } =
      .next (commit (cycleEffect s.cfg s.cycle s.inputs r) s) := by
  have hop := exec_microInstr (s := { s with regs := some (latchRegs s.inputs r) }) rfl
  rwa [latchRegs_state] at hop

theorem latchRegs_inPass {inp : Inputs} (h : inPass r.state = true) :
    latchRegs inp r = { r with pend := r.pend || inp.start } := by
  rw [latchRegs_eq, h, Bool.and_true]

theorem inPass_eq_false {st : SeqState} (h : st = .idle ∨ st = .fault ∨ st = .rsv5 ∨ st = .rsv6) :
    inPass st = false := by
  rcases h with rfl | rfl | rfl | rfl <;> rfl

theorem inPass_eq_true {st : SeqState} (h : st = .select ∨ st = .write ∨ st = .hold ∨ st = .advance) :
    inPass st = true := by
  rcases h with rfl | rfl | rfl | rfl <;> rfl

/-- Settles O8: with `rst` the step is RESET's; without it, the latch is the identity outside the four states of a pass, and
sets PEND from `start` in them. -/
theorem cycleRunsTheStatesOperation : Obligations.CycleRunsTheStatesOperation := by
  intro s r w rest hs hscript
  have hreq : (nextRequest s).1 = .stim w := congrArg Prod.fst (nextRequest_cons hscript)
  have hsample := sampleInputs_dropRequest hscript
  cases hrst : stimRst w with
  | true =>
    have hstep := step_reset hreq hrst
    rw [hsample] at hstep
    exact ⟨_, hstep, rfl, rfl, rfl, fun _ => hstep.symm, fun hfalse => absurd (hrst.symm.trans hfalse) (by decide)⟩
  | false =>
    have hstep := step_cycle_eq_commit hreq hrst hs
    have hop := exec_microInstr_latched (sampleInputs w (dropRequest s)) r
    rw [hsample] at hstep hop
    refine ⟨_, hstep, rfl, rfl, rfl, fun htrue => absurd (hrst.symm.trans htrue) (by decide),
      fun _ => ⟨fun hout => ?_, fun hin => ?_⟩⟩
    · rwa [latchRegs_outside (inPass_eq_false hout), ← hs] at hop
    · rwa [latchRegs_inPass (inPass_eq_true hin)] at hop

end Sys2Proof.Machine
end

section
/-! PROOFS. The write trace of a whole pass (R85, R88): the entries of its four slots are the table of R85. -/

namespace Sys2Proof.Machine

/-- SELECT's entry and those of the four slots, slot 0 written two cycles after the start, are the nine of R85. -/
theorem passTrace_eq_slotsEvents (h t v : Nat) :
    passTrace h t v = ⟨t + 1, .sel, selStart⟩ :: slotsEvents h (t + 2) v 4 := by
  simp [passTrace, slotsEvents, List.range_succ, selStart]
  omega

/-- Settles O36: the run of a pass to the end of its fourth slot, its entries read as the table. -/
theorem passWritesNineEntries : Obligations.PassWritesNineEntries := by
  intro s r v ws rest hpass hlen
  obtain ⟨t, hrun, ht⟩ := hpass.ran le_rfl (by omega)
  have hcycles : 4 * s.cfg.holdCycles + 10 = 4 * (s.cfg.holdCycles + 2) + 2 := by omega
  exact ⟨t, hcycles ▸ hrun, by rw [ht.trace, passTrace_eq_slotsEvents]⟩

/-- The table of R85 depends on the start cycle by a shift alone. -/
theorem passTrace_eq_shiftEvents (h t v : Nat) : passTrace h t v = shiftEvents t (passTrace h 0 v) := by
  simp [passTrace, shiftEvents, Nat.add_assoc]

/-- Settles O41: both passes emit the table of R85, each shifted to its start. -/
theorem passIsIdempotent : Obligations.PassIsIdempotent := by
  intro s s' r r' v ws ws' rest rest' hH hpass hlen hpass' hlen'
  obtain ⟨t, hrun, ht⟩ := passWritesNineEntries s r v ws rest hpass hlen
  obtain ⟨t', hrun', ht'⟩ := passWritesNineEntries s' r' v ws' rest' hpass' (hH ▸ hlen')
  rw [hH] at hrun' ht'
  rw [passTrace_eq_shiftEvents] at ht ht'
  exact ⟨t, t', _, hrun, hrun', ht, ht', rfl⟩

end Sys2Proof.Machine
end

section
/-! PROOFS. The slots of a pass on a value the display can show (R77, R89, R90): the significant digits, then blanks. -/

namespace Sys2Proof.Machine

variable {v i : Nat}

/-- Position 0 is always significant, position `i` when the value reaches `10^i` (R14). -/
theorem lt_significantDigits_iff : i < significantDigits v ↔ i = 0 ∨ 10 ^ i ≤ v := by
  unfold significantDigits
  split
  next hzero => simp [hzero]
  next hpos =>
    rw [lt_digitCount_iff, iff_or_self]
    rintro rfl
    exact Nat.pos_of_ne_zero hpos

theorem significantDigits_le (hv : v ≤ 9999) : significantDigits v ≤ 4 := by
  rw [← not_lt, lt_significantDigits_iff]
  omega

/-- R77 on four digits in one line: a slot shows its digit if that is significant. -/
theorem passByte_eq (hv : v ≤ 9999) (hi : i < 4) :
    passByte v i = if i < significantDigits v then encDigit (digitAt v i) else blankByte := by
  simp only [lt_significantDigits_iff]
  by_cases hdigit : 10 ^ i ≤ v
  · rw [if_pos (.inr hdigit)]
    by_cases hthree : i = 3
    · subst hthree
      have hleading : digitAt v 3 ≠ 0 := by
        rw [Ne, digitAt_eq_zero_iff]
        omega
      rw [passByte_thousands hdigit, if_neg hleading]
    · exact passByte_digit (by omega) hdigit
  · rw [passByte_past_digits hi (by omega)]
    by_cases hzero : i = 0
    · obtain rfl : v = 0 := by simpa [hzero] using hdigit
      simp [hzero, digitAt, lowDigit]
    · rw [if_neg hzero, if_neg (by simp [hzero, hdigit])]

theorem encDigit_ne_blankByte : ∀ d : Fin 10, encDigit d ≠ blankByte := by decide

theorem passByte_ne_blankByte_iff (hv : v ≤ 9999) (hi : i < 4) : passByte v i ≠ blankByte ↔ i < significantDigits v := by
  rw [passByte_eq hv hi]
  split <;> simp [encDigit_ne_blankByte, *]

/-- Of the four slots, those below `n` are `n` many. -/
theorem length_filter_lt_slots : ∀ n ≤ 4, ((List.range 4).filter (· < n)).length = n := by decide

/-- Settles O48: the slots that are not blank are those below the number of significant digits, which is at most four. -/
theorem nonBlankSlotsAreSignificantDigits : Obligations.NonBlankSlotsAreSignificantDigits := by
  intro v hv
  have hslots : passBytes v = (List.range 4).map (passByte v) := rfl
  have hshown : ∀ i ∈ List.range 4, decide (passByte v i ≠ 0xFF) = decide (i < significantDigits v) :=
    fun i hi => decide_eq_decide.mpr (passByte_ne_blankByte_iff hv (List.mem_range.mp hi))
  rw [hslots, List.filter_map, List.length_map, ← length_filter_lt_slots _ (significantDigits_le hv)]
  exact congrArg List.length (List.filter_congr hshown)

/-- Settles O49: such a slot is blank, and the blank byte shows no zero. -/
theorem noStrayLeadingZero : Obligations.NoStrayLeadingZero := by
  have hblank {v i : Nat} (hv : v ≤ 9999) (hi : i < 4) (hpast : significantDigits v ≤ i) : passByte v i = blankByte := by
    rw [passByte_eq hv hi, if_neg (Nat.not_lt.mpr hpast)]
  constructor
  · intro v hv
    refine hblank (by omega) (by decide) ?_
    rw [← not_lt, lt_significantDigits_iff]
    omega
  · intro v i hv hi hpast
    rw [hblank hv hi hpast]
    decide

/-- Settles O51: the digits by division, and the four rows of R77 for a value of three digits. -/
theorem example105ShowsItsDigits : Obligations.Example105ShowsItsDigits :=
  ⟨by decide, by decide⟩

end Sys2Proof.Machine
end

section
/-! PROOFS. The host's NOP command (R93): its word, and its cycle as the state's operation with nothing latched. -/

namespace Sys2Proof.Machine

/-- A STIM word as the number its fields make (R47). -/
theorem stimWord_eq_ofNat (rst start : Bool) (v : Value) :
    stimWord rst start v = BitVec.ofNat 18 (rst.toNat * 131072 + start.toNat * 65536 + v.toNat) := by
  rw [← Laws.EncodedRow.stimWord_toNat, BitVec.ofNat_toNat, BitVec.setWidth_eq]

variable {c : Config} {t : Nat} {inp : Inputs} {s : State} {r : Regs}

theorem encode_nop (v : Value) : encode (.nop v) = .stim (BitVec.ofNat 18 v.toNat) := by
  rw [encode, stimWord_eq_ofNat]
  simp

/-- Without a request there is nothing to latch (R83). -/
theorem latchRegs_noStart (hstart : inp.start = false) : latchRegs inp r = r := by
  simp [latchRegs, hstart]

/-- On the inputs of a NOP the micro-operation that STATE selects does all that the cycle does before it ends (R93). -/
theorem exec_microInstr_drive_noStart (v : Value) (hs : s.regs = some r) :
    exec (microInstr r.state) (drive false v s) =
      .next (commit (cycleEffect s.cfg s.cycle ⟨false, v⟩ r) (drive false v s)) := by
  have hop := exec_microInstr_latched (drive false v s) r
  rwa [latchRegs_noStart rfl, ← hs] at hop

/-- A cycle in IDLE with a request, new or pending, takes NEG_VALUE on a negative value (R78, R105). -/
theorem cycleEffect_idle_faults (hidle : r.state = .idle) (hreq : inp.start = true ∨ r.pend = true)
    (hv : 32768 ≤ inp.value.toNat) : cycleEffect c t inp r = faultEffect .negValue r :=
  (cycleEffect_idle hidle).trans (idleEffect_faults hreq ((negative_iff _).mpr hv))

/-- Settles O10: the NOP cycle is the state's operation and the cycle's end; IDLE with PEND set and FAULT then have one
equation of the register transfer for each clause. -/
theorem nopRunsTheStatesOperation : Obligations.NopRunsTheStatesOperation := by
  refine ⟨encode_nop, fun s r v hs =>
    ⟨_, _, exec_microInstr_drive_noStart v hs, runCycle_some false v hs, rfl, ?_, ?_, ?_⟩⟩
  · intro hidle hpend hv
    rw [cycleEffect_idle_starts (inp := ⟨false, v⟩) hidle hpend hv]
    exact ⟨rfl, rfl⟩
  · intro hidle hpend hv
    rw [cycleEffect_idle_faults hidle (.inr hpend) hv]
    exact ⟨rfl, rfl⟩
  · intro hfault
    rw [cycleEffect_fault hfault]
    exact ⟨rfl, List.append_nil _⟩

end Sys2Proof.Machine
end

section
/-! PROOFS. Fault entry and the FAULT state (R105, R106, R109 to R111): a cycle that takes a fault, a cycle in FAULT, and that no
cycle leads into a reserved code. -/

namespace Sys2Proof.Machine

variable {s : State} {r : Regs} {v : Value} {b : Bool} {c : Config} {t : Nat} {inp : Inputs}

/-- An operation that assigns nothing and emits nothing leaves the whole state as it is (R110). -/
theorem commit_unchanged (hs : s.regs = some r) : commit ⟨r, []⟩ s = s := by
  simp [commit, stampWrites, ← hs]

/-- A cycle in FAULT drives the inputs and ends, `start` or not (R110). -/
theorem runCycle_fault (hs : s.regs = some r) (hfault : r.state = .fault) :
    runCycle b v s = .next (endCycle (drive b v s)) := by
  rw [runCycle_some b v hs, cycleEffect_fault hfault, commit_unchanged (s := drive b v s) hs]

/-- A cycle in a reserved code takes ILLEGAL_STATE, `start` or not (R106). -/
theorem runCycle_reserved (hs : s.regs = some r) (hrsv : r.state = .rsv5 ∨ r.state = .rsv6) :
    runCycle b v s = .next (endCycle (commit (faultEffect .illegalState r) (drive b v s))) := by
  rw [runCycle_some b v hs, cycleEffect_reserved hrsv]

/-- A cycle that would start a pass on a negative value takes NEG_VALUE instead (R105). -/
theorem runCycle_negative (hs : s.regs = some r) (hidle : r.state = .idle) (hreq : b = true ∨ r.pend = true)
    (hv : 32768 ≤ v.toNat) :
    runCycle b v s = .next (endCycle (commit (faultEffect .negValue r) (drive b v s))) := by
  rw [runCycle_some b v hs, cycleEffect_idle_faults hidle hreq hv]

/-- No cycle with `rst = 0` ends in a reserved code, whatever state it begins in (R78 to R82, R106, R110). -/
theorem cycleEffect_not_reserved :
    (cycleEffect c t inp r).regs.state ≠ .rsv5 ∧ (cycleEffect c t inp r).regs.state ≠ .rsv6 := by
  cases hst : r.state with
  | idle =>
    rw [cycleEffect_idle hst, idleEffect]
    split
    · split <;> simp [faultEffect]
    · simp [hst]
  | select => simp [cycleEffect_select hst, selectEffect]
  | write => simp [cycleEffect_write hst, writeEffect]
  | hold =>
    rw [cycleEffect_hold hst, holdEffect]
    split <;> simp [hst]
  | advance =>
    rw [cycleEffect_advance hst, advanceEffect, afterSlot]
    split <;> simp
  | rsv5 => simp [cycleEffect_reserved (.inl hst), faultEffect]
  | rsv6 => simp [cycleEffect_reserved (.inr hst), faultEffect]
  | fault => simp [cycleEffect_fault hst, hst]

/-- R32 (a). -/
theorem Reachable.not_reserved (hreach : Reachable s) (hs : s.regs = some r) : r.state ≠ .rsv5 ∧ r.state ≠ .rsv6 :=
  hreach.regs_induction (P := fun _ r => r.state ≠ .rsv5 ∧ r.state ≠ .rsv6) (fun _ => by simp [resetRegs])
    (fun _ _ _ _ _ => cycleEffect_not_reserved) r hs

/-- Settles O19: both codes' operation is the fault entry, alone and in a cycle, and no cycle leads into one of them. -/
theorem reservedCodesTakeIllegalState : Obligations.ReservedCodesTakeIllegalState := by
  refine ⟨rfl, rfl, ?_, ?_, fun _ _ => Reachable.not_reserved⟩
  · rintro s r hs i (rfl | rfl) <;> exact ⟨_, onRegs_some hs, sameSurroundings_commit, rfl, rfl⟩
  · intro s r v hs hrsv
    exact ⟨_, _, runCycle_reserved hs hrsv, rfl, rfl, rfl, rfl⟩

/-- Settles O21: a REFRESH brings the request, a NOP finds it in PEND; both cycles are then the fault entry. -/
theorem negativeValueTakesTheFault : Obligations.NegativeValueTakesTheFault := by
  intro s r v hs hidle hv i hi
  obtain ⟨b, hexec, hreq⟩ : ∃ b, exec i s = runCycle b v s ∧ (b = true ∨ r.pend = true) := by
    obtain rfl | ⟨rfl, hpend⟩ := hi
    · exact ⟨true, rfl, .inl rfl⟩
    · exact ⟨false, rfl, .inr hpend⟩
  exact ⟨_, _, hexec.trans (runCycle_negative hs hidle hreq hv), rfl, rfl, rfl, rfl, rfl, rfl, rfl, rfl, rfl, rfl, rfl,
    rfl, rfl⟩

/-- Settles O26: of the four things a step can do, a RESET and a loss of power are left out, and neither a cycle in FAULT nor a
lookup touches the registers or the trace. -/
theorem onlyResetLeavesFault : Obligations.OnlyResetLeavesFault := by
  refine ⟨fun s => ⟨_, _, rfl, rfl, rfl, rfl⟩, fun s t r hs hfault hstep hnoReset hpower => ?_⟩
  obtain ⟨w, hw, hrst, -⟩ | ⟨w, r', hw, hrst, -, -⟩ | ⟨d, p, -, -, rfl⟩ | ⟨hlost, -⟩ := step_cases hstep
  · exact absurd (hrst.symm.trans (hnoReset w hw)) (by decide)
  · have hcycle := (step_cycle hw hrst).trans (runCycle_fault hs hfault)
    obtain rfl := Host.Outcome.next.inj (hcycle.symm.trans hstep)
    exact ⟨hs, rfl⟩
  · exact ⟨hs, rfl⟩
  · exact absurd hlost hpower

/-- Settles O20: FAULT's operation assigns nothing, and the two commands' cycles only drive the inputs and end. -/
theorem faultStateChangesNothing : Obligations.FaultStateChangesNothing := by
  refine ⟨rfl, fun s r hs => ?_, fun s r v hs hfault => ?_⟩
  · have hop : exec .seqFault s = .next (commit ⟨r, []⟩ s) := onRegs_some hs
    rwa [commit_unchanged hs] at hop
  · have hbusy : r.state ≠ .idle := by simp [hfault]
    exact ⟨busyFlag_eq_true.mpr hbusy, faultFlag_eq_true.mpr hfault, runCycle_fault hs hfault, runCycle_fault hs hfault⟩

end Sys2Proof.Machine
end

section
/-! PROOFS. Building a block (R108). -/

namespace Sys2Proof.Machine

variable {p : Platform} {h width : Nat} {c : Config}

/-- R108 in one line: a block is built exactly as it was asked for, or not at all; that the request is legal, the proofs in
`c` say. -/
theorem buildConfig_eq_ok_iff :
    buildConfig p h width = .ok c ↔ c.holdCycles = h ∧ c.htWidth = width ∧ c.platform = p := by
  constructor
  · intro hbuild
    unfold buildConfig at hbuild
    split_ifs at hbuild
    cases hbuild
    exact ⟨rfl, rfl, rfl⟩
  · rintro ⟨rfl, rfl, rfl⟩
    simp [buildConfig, c.width_pos, c.hold_pos, c.hold_fits]

/-- No configuration breaks the three bounds of R108. -/
theorem config_bounds (c : Config) : 1 ≤ c.htWidth ∧ 1 ≤ c.holdCycles ∧ c.holdCycles ≤ 2 ^ c.htWidth :=
  ⟨c.width_pos, c.hold_pos, c.hold_fits⟩

/-- Settles O52: a configuration built carries the bounds, and numbers that meet them are a configuration. -/
theorem buildRefusesIllegalConfigurations : Obligations.BuildRefusesIllegalConfigurations := by
  refine ⟨fun p h width => ⟨?_, ?_⟩, fun p h width hillegal => ?_, config_bounds⟩
  · rintro ⟨c, -, rfl, rfl, rfl⟩
    exact config_bounds c
  · rintro ⟨hwidth, hpos, hfits⟩
    exact ⟨⟨h, width, p, hwidth, hpos, hfits⟩, buildConfig_eq_ok_iff.mpr ⟨rfl, rfl, rfl⟩, rfl, rfl, rfl⟩
  · cases hbuild : buildConfig p h width with
    | error e => exact ⟨e, rfl⟩
    | ok c =>
      obtain ⟨rfl, rfl, -⟩ := buildConfig_eq_ok_iff.mp hbuild
      exact absurd (config_bounds c) hillegal

end Sys2Proof.Machine
end

section
/-! PROOFS. The RESET command (R95, R119). -/

namespace Sys2Proof.Machine

theorem exec_reset (s : State) : exec .reset s = .next (endCycle (commit resetEffect s)) :=
  rfl

/-- Settles O9: RESET reads no register, so committing `resetEffect` and ending the cycle is all it does, power-up included. -/
theorem resetSetsEveryRegister : Obligations.ResetSetsEveryRegister := fun s =>
  ⟨_, resetRegs, exec_reset s, rfl, rfl, rfl, rfl, rfl, rfl, rfl, rfl, rfl, rfl, rfl, rfl, rfl, rfl, rfl, rfl, rfl, rfl⟩

end Sys2Proof.Machine
end

section
/-! PROOFS. Requests during a pass (R126, R127): the pass leaves PEND set, and the IDLE cycle after it starts the next one. -/

namespace Sys2Proof.Machine

variable {s : State} {r : Regs} {v : Nat} {ws : List (BitVec 18)} {rest : List Request}

/-- A whole pass, back to IDLE: its registers in closed form, its entries as the table of R85 (R87). -/
theorem StartsPass.ran_whole (h : StartsPass s r v ws rest) (hlen : ws.length = 4 * s.cfg.holdCycles + 9) :
    ∃ t, stepN (4 * s.cfg.holdCycles + 10) s = .next t ∧
      RanCycles s (4 * s.cfg.holdCycles + 10)
        (passRegs v 4 (ws.any stimStart) r, passTrace s.cfg.holdCycles s.cycle v) rest t := by
  have hcycles : 4 * s.cfg.holdCycles + 10 = 4 * (s.cfg.holdCycles + 2) + 2 := by omega
  rw [hcycles, passTrace_eq_slotsEvents]
  exact h.ran le_rfl (by omega)

/-- Settles O42: the first pass ends in IDLE with PEND set, so the cycle on `w1` starts a second one, which no `start` follows. -/
theorem requestsOfAPassMergeIntoOne : Obligations.RequestsOfAPassMergeIntoOne := by
  intro s r v v' ws ws' w1 rest hpass hlen hstart hrst hvalue hv' hlen' hws'
  obtain ⟨t, hrun, ht⟩ := hpass.ran_whole hlen
  rw [hstart] at ht
  have hserved : StartsPass t (passRegs v 4 true r) v' ws' rest :=
    ⟨ht.regs, rfl, hv', fun w hw => (hws' w hw).1, w1, ht.script, hrst, .inr rfl, hvalue⟩
  obtain ⟨t', hrun', ht'⟩ := hserved.ran_whole (ht.cfg ▸ hlen')
  have hquiet : ws'.any stimStart = false := by simpa using fun w hw => (hws' w hw).2
  refine ⟨t', _, ?_, ht'.regs, rfl, hquiet, ?_⟩
  · have hcycles : 8 * s.cfg.holdCycles + 20 = 4 * s.cfg.holdCycles + 10 + (4 * s.cfg.holdCycles + 10) := by omega
    rw [hcycles, stepN_add _ _ s hrun, ← ht.cfg, hrun']
  · rw [ht'.trace, ht.trace, ht.cfg, ht.cycle, Nat.add_assoc]

end Sys2Proof.Machine
end

section
/-! PROOFS. HOLD (R81, R128): the registers at every cycle of it, whatever the words. -/

namespace Sys2Proof.Machine

variable {s : State} {r : Regs} {k : Nat} {ws : List (BitVec 18)} {rest : List Request}

/-- `stepN_words` stopped after the first `k` of the words. -/
theorem stepN_take (hk : k ≤ ws.length) (hregs : s.regs = some r) (hscript : s.script = ws.map Request.stim ++ rest)
    (hrst : ∀ w ∈ ws, stimRst w = false) :
    ∃ t, stepN k s = .next t ∧
      RanCycles s k (runCycles s.cfg s.cycle r (ws.take k)) ((ws.drop k).map Request.stim ++ rest) t := by
  have hsplit : s.script = (ws.take k).map Request.stim ++ ((ws.drop k).map Request.stim ++ rest) := by
    rw [hscript, ← List.append_assoc, ← List.map_append, List.take_append_drop]
  have hrun := stepN_words hregs hsplit fun w hw => hrst w (List.mem_of_mem_take hw)
  rwa [List.length_take_of_le hk] at hrun

variable {c : Config} {t : Nat} {w : BitVec 18}

/-- While HT lasts, HOLD counts it down once a cycle, whatever the words (R81). -/
theorem runCycles_hold_countdown (hstate : r.state = .hold) (hlen : ws.length ≤ r.ht) :
    runCycles c t r ws = ({ r with ht := r.ht - ws.length, pend := r.pend || ws.any stimStart }, []) := by
  induction ws generalizing t r with
  | nil => simp [runCycles]
  | cons w ws ih =>
    rw [List.length_cons] at hlen
    have hpos : r.ht ≠ 0 := by omega
    have hcycle : cycleEffect c t ⟨stimStart w, stimValue w⟩ r =
        ⟨{ r with pend := r.pend || stimStart w, ht := r.ht - 1 }, []⟩ :=
      (cycleEffect_hold hstate).trans (if_neg hpos)
    rw [runCycles_cons hcycle (ih hstate (Nat.le_sub_of_add_le hlen))]
    simp [stampWrites, Bool.or_assoc, Nat.sub_sub, Nat.add_comm]

/-- WRITE loads HT with `H - 1`, so up to `H` cycles after its start the block is in HOLD (R80, R81). -/
theorem runCycles_write_hold (hwrite : r.state = .write) (hlen : ws.length < c.holdCycles) :
    (runCycles c t r (w :: ws)).1.state = .hold ∧
      (runCycles c t r (w :: ws)).1.ht = c.holdCycles - (ws.length + 1) := by
  have hload : ws.length ≤ holdLoad c := by
    rw [holdLoad_eq]
    omega
  rw [runCycles_cons (cycleEffect_write hwrite) (runCycles_hold_countdown rfl hload)]
  refine ⟨rfl, ?_⟩
  change holdLoad c - ws.length = _
  rw [holdLoad_eq]
  omega

/-- After `H` cycles of HOLD comes ADVANCE (R81). -/
theorem runCycles_write_advance (hwrite : r.state = .write) (hlen : ws.length = c.holdCycles) :
    (runCycles c t r (w :: ws)).1.state = .advance := by
  have hload : ws.length = holdLoad c + 1 := by
    rw [hlen, holdLoad_eq, Nat.sub_add_cancel c.hold_pos]
  rw [runCycles_cons (cycleEffect_write hwrite) (runCycles_hold rfl hload)]

/-- Settles O43: the run of the WRITE cycle and the first `k - 1` of HOLD, then that of all `H` of them. -/
theorem holdLastsExactlyH : Obligations.HoldLastsExactlyH := by
  intro s r ws rest hregs hwrite hscript hrst hlen
  obtain ⟨w, ws, rfl⟩ := List.exists_cons_of_length_eq_add_one hlen
  have hholds : ws.length = s.cfg.holdCycles := Nat.succ.inj hlen
  refine ⟨fun k hlow hhigh => ?_, ?_⟩
  · obtain ⟨j, rfl⟩ := Nat.exists_eq_add_of_le' hlow
    obtain ⟨t, hrun, ht⟩ := stepN_take (k := j + 1) (by omega) hregs hscript hrst
    have hj : (ws.take j).length = j := List.length_take_of_le (by omega)
    obtain ⟨hstate, hht⟩ := runCycles_write_hold (t := s.cycle) (w := w) hwrite (hj.trans_lt hhigh)
    rw [hj] at hht
    exact ⟨t, _, hrun, ht.regs, hstate, hht⟩
  · obtain ⟨t, hrun, ht⟩ := stepN_words hregs hscript hrst
    rw [hlen] at hrun
    exact ⟨t, _, hrun, ht.regs, runCycles_write_advance hwrite hholds⟩

end Sys2Proof.Machine
end

section
/-! PROOFS. The encoder against the decoder, format by format (R47 to R50): each undoes the other. -/

namespace Sys2Proof.Machine

theorem decodeStim_stimWord_command (start : Bool) (v : Value) :
    decodeStim (stimWord false start v) = if start then .refresh v else .nop v := by
  simp [decodeStim]

/-- Settles O4: the fields of a command's word are its operand and its two bits, and every other row has one fixed word. -/
theorem decodingUndoesEncoding : Obligations.DecodingUndoesEncoding := by
  intro i _
  cases i with
  | refresh v => exact congrArg Except.ok (decodeStim_stimWord_command true v)
  | nop v => exact congrArg Except.ok (decodeStim_stimWord_command false v)
  | _ => rfl

/-- A STIM word holds nothing but its three fields (R47). -/
theorem stimWord_fields (w : BitVec 18) : stimWord (stimRst w) (stimStart w) (stimValue w) = w := by
  have hrst : (stimRst w).toNat = w.toNat / 2 ^ 17 % 2 := Nat.toNat_testBit _ _
  have hstart : (stimStart w).toNat = w.toNat / 2 ^ 16 % 2 := Nat.toNat_testBit _ _
  have hvalue : (stimValue w).toNat = w.toNat % 2 ^ 16 := BitVec.extractLsb'_toNat _ _ _
  apply BitVec.eq_of_toNat_eq
  rw [Laws.EncodedRow.stimWord_toNat]
  omega

theorem encode_decodeStim {w : BitVec 18} (hrst : stimRst w = false) : encode (decodeStim w) = .stim w := by
  have hword : encode (decodeStim w) = .stim (stimWord false (stimStart w) (stimValue w)) := by
    cases hstart : stimStart w <;> simp [decodeStim, hrst, hstart, encode]
  rw [hword, ← hrst, stimWord_fields]

theorem encode_decodeSeq : ∀ w : BitVec 3, encode (decodeSeq w) = .seq w := by decide

theorem encode_of_decodeLut {d : BitVec 4} {i : Instr} (h : decodeLut d = .ok i) : encode i = .lut d := by
  obtain ⟨n, hn⟩ := d
  interval_cases n <;> cases h <;> rfl

/-- Settles O5: format by format; a STIM word that is no RESET has `rst` 0, and its other fields are the command's. -/
theorem encodingUndoesDecoding : Obligations.EncodingUndoesDecoding := by
  intro t i hdecode hreset
  cases t with
  | stim w =>
    obtain rfl : decodeStim w = i := Except.ok.inj hdecode
    exact encode_decodeStim (Bool.eq_false_iff.mpr fun hrst => hreset (decodeStim_reset hrst))
  | seq w =>
    obtain rfl : decodeSeq w = i := Except.ok.inj hdecode
    exact encode_decodeSeq w
  | lut d => exact encode_of_decodeLut hdecode

end Sys2Proof.Machine
end

section
/-! PROOFS. The opcode table (R61): a row matches the words that decode to it. -/

namespace Sys2Proof.Machine

/-- The rows of the opcode table. -/
def tableRows : List TableRow :=
  [.reset, .refresh 0, .nop 0, .seqIdle, .seqSelect, .seqWrite, .seqHold, .seqAdvance, .seqRsv5, .seqRsv6, .seqFault,
    .enc0, .enc1, .enc2, .enc3, .enc4, .enc5, .enc6, .enc7, .enc8, .enc9].map tableRow

theorem tableRow_mem_tableRows (i : Instr) : tableRow i ∈ tableRows := by
  cases i <;> simp [tableRows, tableRow]

/-- The masks of the STIM rows cover `rst` and `start` alone (R93 to R95). -/
theorem stimMask_top : ∀ row ∈ tableRows, row.format = .stim → row.mask = Nat.land 0x30000 row.mask := by decide

theorem matchesWord_stimWord_value {row : TableRow} (hrow : row ∈ tableRows) (rst start : Bool) (v : Value) :
    row.matchesWord (.stim (stimWord rst start v)) = row.matchesWord (.stim (stimWord rst start 0)) := by
  have htop (v : Value) : Nat.land (stimWord rst start v).toNat 0x30000 = (rst.toNat * 2 + start.toNat) * 65536 := by
    rw [← Laws.EncodedRow.mask_top _ v.toNat v.isLt (by cases rst <;> cases start <;> decide),
      Laws.EncodedRow.stimWord_toNat, Nat.add_mul, Nat.mul_assoc]
    rfl
  by_cases hformat : row.format = .stim
  · have hmask (v : Value) :
        (stimWord rst start v).toNat &&& row.mask = (rst.toNat * 2 + start.toNat) * 65536 &&& row.mask := by
      rw [← htop v]
      exact (congrArg (Nat.land _) (stimMask_top row hrow hformat)).trans (Nat.land_assoc _ _ _).symm
    simp [TableRow.matchesWord, TableWord.format, TableWord.bits, hmask, hformat]
  · simp [TableRow.matchesWord, TableWord.format, hformat]

theorem tableRow_decodeStim_stimWord (rst start : Bool) (v : Value) :
    tableRow (decodeStim (stimWord rst start v)) = tableRow (decodeStim (stimWord rst start 0)) := by
  cases rst <;> cases start <;> simp [decodeStim, tableRow]

theorem matchesWord_stim_iff : ∀ row ∈ tableRows, ∀ rst start : Bool,
    row.matchesWord (.stim (stimWord rst start 0)) = true ↔ tableRow (decodeStim (stimWord rst start 0)) = row := by decide

theorem matchesWord_seq_iff : ∀ row ∈ tableRows, ∀ w : BitVec 3,
    row.matchesWord (.seq w) = true ↔ tableRow (decodeSeq w) = row := by decide

theorem matchesWord_lut_iff : ∀ row ∈ tableRows, ∀ d : BitVec 4,
    row.matchesWord (.lut d) = true ↔ (decodeLut d).toOption.map tableRow = some row := by decide

/-- The table alone decodes, in each of its formats. -/
theorem matchesWord_iff_decode (j : Instr) (t : TableWord) :
    (tableRow j).matchesWord t = true ↔ (decode t).toOption.map tableRow = some (tableRow j) := by
  have hrow := tableRow_mem_tableRows j
  cases t with
  | stim w =>
    rw [← stimWord_fields w, matchesWord_stimWord_value hrow, matchesWord_stim_iff _ hrow,
      ← tableRow_decodeStim_stimWord _ _ (stimValue w)]
    exact Option.some_inj.symm
  | seq w => rw [matchesWord_seq_iff _ hrow]; exact Option.some_inj.symm
  | lut d => exact matchesWord_lut_iff _ hrow d

/-- Settles O6: a word matches exactly the row of the instruction it decodes to. -/
theorem tableAloneDecodes : Obligations.TableAloneDecodes := by
  constructor
  · intro t i hdecode
    have hmatch (j : Instr) : (tableRow j).matchesWord t = true ↔ tableRow j = tableRow i := by
      rw [matchesWord_iff_decode, hdecode, Except.toOption, Option.map_some, Option.some_inj, eq_comm]
    exact ⟨(hmatch i).mpr rfl, fun j => (hmatch j).mp⟩
  · intro t j hmatch
    rw [matchesWord_iff_decode] at hmatch
    cases hdecode : decode t with
    | ok i =>
      rw [hdecode] at hmatch
      exact ⟨i, rfl, Option.some_inj.mp hmatch⟩
    | error e =>
      rw [hdecode] at hmatch
      cases hmatch

end Sys2Proof.Machine
end

section
/-! PROOFS. The invariants of a reachable state (R32), sorted by the state they speak of: reset meets them, and each state's
operation takes those of its state to those of the next. -/

namespace Sys2Proof.Machine

/-- What R32 says of the registers in the state they are in, `v` being the value of the pass. -/
def PhaseOk (c : Config) (v : Nat) (r : Regs) : Prop :=
  match r.state with
  | .idle => r.sel = selNone ∧ r.slot = 0 ∧ r.fcode = .none ∧ r.ndig.toNat ≤ 4
  | .select =>
    r.sel = selNone ∧ r.slot = 0 ∧ r.fcode = .none ∧ r.ndig = 0 ∧ r.pend = false ∧ r.w.toNat = v
  | .write =>
    r.sel = selStart >>> r.slot.toNat ∧ r.fcode = .none ∧ r.ndig.toNat = min (digitCount v) r.slot.toNat ∧
      r.w.toNat = v / 10 ^ r.slot.toNat
  | .hold | .advance =>
    r.sel = selStart >>> r.slot.toNat ∧ r.fcode = .none ∧ r.ndig.toNat = min (digitCount v) (r.slot.toNat + 1) ∧
      r.w.toNat = v / 10 ^ (r.slot.toNat + 1) ∧ r.seg = passByte v r.slot.toNat ∧
      (r.state = .hold → r.ht ≤ c.holdCycles - 1)
  | .rsv5 | .rsv6 => False
  | .fault => r.sel = selNone ∧ r.seg = blankByte ∧ r.fcode = .negValue ∧ r.ndig.toNat ≤ 4

variable {c : Config} {t v : Nat} {inp : Inputs} {r : Regs} {p : Bool}

/-- R32 (h): no more digits are counted than slots were written. -/
theorem PhaseOk.ndig_le (h : PhaseOk c v r) : r.ndig.toNat ≤ 4 := by
  have hslot : r.slot.toNat < 4 := r.slot.isLt
  cases hst : r.state <;> grind [PhaseOk]

/-- R32 letter by letter is `PhaseOk` of the state the registers are in, and the two facts that hold in every state. -/
theorem regsOk_iff :
    RegsOk c r ↔ (∃ v, v ≤ 32767 ∧ PhaseOk c v r) ∧ SegByte r.seg ∧ r.ht < 2 ^ c.htWidth := by
  constructor
  · rintro ⟨ha, hb, hc, hd, he, ⟨v, hv, hf⟩, hg, hh, hw, hi, hht, hhome, hcode, hcodeFault⟩
    refine ⟨⟨v, hv, ?_⟩, hi, hht⟩
    cases hst : r.state <;> simp_all [PhaseOk, PassOn, selNone, selStart, blankByte]
  · rintro ⟨⟨v, hv, hphase⟩, hi, hht⟩
    exact
      { notReserved := by constructor <;> intro hst <;> simp [PhaseOk, hst] at hphase
        darkOutsideSlots := by rintro (hst | hst) <;> simp_all [PhaseOk, selNone]
        oneHotInSlots := by rintro (hst | hst | hst) <;> simp_all [PhaseOk, selStart]
        darkInFault := fun hst => by simp_all [PhaseOk, selNone, blankByte]
        freshInSelect := fun hst => by simp_all [PhaseOk]
        workingValue := ⟨v, hv, fun hst => by simp_all [PhaseOk], fun hst => by simp_all [PhaseOk], by
          rintro (hst | hst) <;> simp_all [PhaseOk]⟩
        holdBound := fun hst => by simp_all [PhaseOk]
        digitBound := hphase.ndig_le
        digitBoundInWrite := fun hst => by simp_all [PhaseOk]
        segLegal := hi
        holdFits := hht
        slotHome := fun hst => by simp_all [PhaseOk]
        codeOutsideFault := fun hst => by cases hst : r.state <;> simp_all [PhaseOk]
        codeInFault := fun hst => by simp_all [PhaseOk] }

theorem phaseOk_resetRegs : PhaseOk c 0 resetRegs := ⟨rfl, rfl, rfl, by decide⟩

/-- IDLE (R78): the value of the pass may change here only. -/
theorem phaseOk_idleEffect (h : PhaseOk c v r) (hv : v ≤ 32767) (hst : r.state = .idle) :
    ∃ v', v' ≤ 32767 ∧ PhaseOk c v' (idleEffect inp r).regs := by
  have hidle := h
  simp only [PhaseOk, hst] at hidle
  obtain ⟨hsel, -, hcode, hndig⟩ := hidle
  unfold idleEffect
  split
  · split
    next hneg => exact ⟨v, hv, rfl, rfl, rfl, hndig⟩
    next hpos =>
      rw [negative_iff] at hpos
      exact ⟨inp.value.toNat, by omega, hsel, rfl, hcode, rfl, rfl, rfl⟩
  · exact ⟨v, hv, h⟩

theorem phaseOk_selectEffect (h : PhaseOk c v r) (hst : r.state = .select) :
    PhaseOk c v (selectEffect { r with pend := p }).regs := by
  simp only [PhaseOk, hst] at h
  obtain ⟨-, hslot, hcode, hndig, -, hw⟩ := h
  simp [PhaseOk, selectEffect, hslot, hcode, hndig, hw]

/-- WRITE (R80): the registers it reads are those of the closed form of a pass, so it counts and shows what that says. -/
theorem phaseOk_writeEffect (h : PhaseOk c v r) (hv : v ≤ 32767) (hst : r.state = .write) :
    PhaseOk c v (writeEffect c t { r with pend := p }).regs := by
  simp only [PhaseOk, hst] at h
  obtain ⟨hsel, hcode, hndig, hw⟩ := h
  have hslot : r.slot.toNat < 4 := r.slot.isLt
  have hw' : r.w = (passRegs v r.slot.toNat p r).w :=
    BitVec.eq_of_toNat_eq (hw.trans (toNat_workingValue hv).symm)
  have hndig' : r.ndig = (passRegs v r.slot.toNat p r).ndig :=
    BitVec.eq_of_toNat_eq (hndig.trans (passRegs_ndig_toNat (by omega)).symm)
  have hcount : (if (extStep r.w).valid then countDigit t r.ndig else r.ndig).toNat =
      min (digitCount v) (r.slot.toNat + 1) := by
    rw [hw', hndig', ndig_passRegs_succ (b := p) hv hslot, passRegs_ndig_toNat (by omega)]
  have hnext : (extStep r.w).next.toNat = v / 10 ^ (r.slot.toNat + 1) := by
    rw [extStep_next_toNat, hw, Nat.div_div_eq_div_mul, pow_succ]
  have hshown : slotPattern r.w r.slot.toNat = passByte v r.slot.toNat := by
    rw [hw']
    exact slotPattern_workingValue hv hslot
  exact ⟨hsel, hcode, hcount, hnext, hshown, fun _ => (holdLoad_eq c).le⟩

/-- HOLD (R81). -/
theorem phaseOk_holdEffect (h : PhaseOk c v r) (hst : r.state = .hold) :
    PhaseOk c v (holdEffect { r with pend := p }).regs := by
  simp only [PhaseOk, hst] at h
  obtain ⟨hsel, hcode, hndig, hw, hseg, hht⟩ := h
  unfold holdEffect
  split
  · exact ⟨hsel, hcode, hndig, hw, hseg, nofun⟩
  · simp only [PhaseOk, hst]
    exact ⟨hsel, hcode, hndig, hw, hseg, fun _ => (Nat.sub_le _ _).trans (hht trivial)⟩

/-- ADVANCE (R82): the shift of the last slot darkens the display. -/
theorem phaseOk_advanceEffect (h : PhaseOk c v r) (hst : r.state = .advance) :
    PhaseOk c v (advanceEffect { r with pend := p }).regs := by
  simp only [PhaseOk, hst] at h
  obtain ⟨hsel, hcode, hndig, hw, -, -⟩ := h
  have hshift : shiftSel r.sel = selStart >>> (r.slot.toNat + 1) := by
    rw [hsel, shiftSel, BitVec.shiftRight_add]
  by_cases hlast : r.slot.toNat = 3
  · have hidle : afterSlot r.slot = .idle := afterSlot_last hlast
    have hslot : r.slot = 3 := BitVec.eq_of_toNat_eq hlast
    simp only [advanceEffect, PhaseOk, hidle, hshift]
    refine ⟨?_, ?_, hcode, ?_⟩
    · rw [hslot]; rfl
    · rw [hslot]; rfl
    · omega
  · have hwrite : afterSlot r.slot = .write := afterSlot_inner hlast
    have hnext : (nextSlot r.slot).toNat = r.slot.toNat + 1 := by
      have := r.slot.isLt
      rw [nextSlot_toNat]
      omega
    simp only [advanceEffect, PhaseOk, hwrite, hshift, hnext]
    exact ⟨trivial, hcode, hndig, hw⟩

theorem phaseOk_cycleEffect (h : PhaseOk c v r) (hv : v ≤ 32767) :
    ∃ v', v' ≤ 32767 ∧ PhaseOk c v' (cycleEffect c t inp r).regs := by
  cases hst : r.state with
  | idle => rw [cycleEffect_idle hst]; exact phaseOk_idleEffect h hv hst
  | select => rw [cycleEffect_select hst]; exact ⟨v, hv, phaseOk_selectEffect h hst⟩
  | write => rw [cycleEffect_write hst]; exact ⟨v, hv, phaseOk_writeEffect h hv hst⟩
  | hold => rw [cycleEffect_hold hst]; exact ⟨v, hv, phaseOk_holdEffect h hst⟩
  | advance => rw [cycleEffect_advance hst]; exact ⟨v, hv, phaseOk_advanceEffect h hst⟩
  | rsv5 => simp [PhaseOk, hst] at h
  | rsv6 => simp [PhaseOk, hst] at h
  | fault => rw [cycleEffect_fault hst]; exact ⟨v, hv, h⟩

/-- HT fits its width (R19): WRITE loads a value that does, HOLD counts down. -/
theorem ht_cycleEffect_lt (h : r.ht < 2 ^ c.htWidth) : (cycleEffect c t inp r).regs.ht < 2 ^ c.htWidth := by
  cases hst : r.state with
  | idle =>
    rw [cycleEffect_idle hst, idleEffect]
    split
    · split <;> exact h
    · exact h
  | select => rwa [cycleEffect_select hst]
  | write => rw [cycleEffect_write hst]; exact holdLoad_lt c
  | hold =>
    rw [cycleEffect_hold hst, holdEffect]
    split
    · exact h
    · exact (Nat.sub_le _ _).trans_lt h
  | advance => rwa [cycleEffect_advance hst]
  | rsv5 => rwa [cycleEffect_reserved (.inl hst)]
  | rsv6 => rwa [cycleEffect_reserved (.inr hst)]
  | fault => rwa [cycleEffect_fault hst]

theorem regsOk_resetRegs (c : Config) : RegsOk c resetRegs :=
  regsOk_iff.mpr ⟨⟨0, by decide, phaseOk_resetRegs⟩, .inl rfl, Nat.two_pow_pos _⟩

theorem regsOk_cycleEffect (h : RegsOk c r) : RegsOk c (cycleEffect c t inp r).regs := by
  obtain ⟨⟨v, hv, hphase⟩, hseg, hht⟩ := regsOk_iff.mp h
  exact regsOk_iff.mpr ⟨phaseOk_cycleEffect hphase hv, segByte_cycleEffect hseg, ht_cycleEffect_lt hht⟩

/-- Settles O28: a RESET leads to the reset values, a cycle keeps the invariants of the registers, a lookup leaves the registers
alone, and after a loss of power there are none. -/
theorem stepKeepsInvariant : Obligations.StepKeepsInvariant := by
  intro s t hinv hstep u hu
  obtain ⟨w, -, -, rfl⟩ | ⟨w, r, -, -, hr, rfl⟩ | ⟨d, p, -, -, rfl⟩ | ⟨-, rfl⟩ := step_cases hstep
  · obtain rfl : resetRegs = u := Option.some.inj hu
    exact regsOk_resetRegs s.cfg
  · obtain rfl := Option.some.inj hu
    exact regsOk_cycleEffect (hinv r hr)
  · exact hinv u hu
  · cases hu

/-- Settles O29: the registers that every run from power-up reaches are reset's or a cycle's. -/
theorem reachableStatesMeetInvariant : Obligations.ReachableStatesMeetInvariant :=
  fun _ r hreach => hreach.regs_induction (P := RegsOk) regsOk_resetRegs (fun _ _ _ _ => regsOk_cycleEffect) r

/-- Settles O27: the registers of `State.resetWith` are reset's, for every configuration. -/
theorem resetStateMeetsInvariant : Obligations.ResetStateMeetsInvariant := by
  have hreset (c : Config) : Inv (State.resetWith c) := by
    intro r hr
    obtain rfl : resetRegs = r := Option.some.inj hr
    exact regsOk_resetRegs c
  exact ⟨hreset, hreset _⟩

end Sys2Proof.Machine
end

section
/-! PROOFS. The write trace (R11, R13, R43): what an operation emits tells what it assigns to SEG and SEL. -/

namespace Sys2Proof.Machine

variable {c : Config} {t : Nat} {inp : Inputs} {r : Regs} {p : Port} {s : State}

/-- The entries of a cycle carry its number (R12, R13). -/
theorem cycle_of_mem_stampWrites {ws : List (Port × Byte)} {e : Event} (he : e ∈ stampWrites t ws) : e.cycle = t := by
  obtain ⟨w, -, rfl⟩ := List.mem_map.mp he
  rfl

/-- The register behind a port. -/
def portByte : Port → Regs → Byte
  | .seg, r => r.seg
  | .sel, r => r.sel

/-- The last byte an operation emits on a port. -/
def lastWrite (p : Port) (ws : List (Port × Byte)) : Option Byte :=
  ((ws.filter fun w => w.1 = p).getLast?).map Prod.snd

theorem lastByte_append_stampWrites (es : List Event) (ws : List (Port × Byte)) :
    lastByte p (es ++ stampWrites t ws) = (lastWrite p ws).or (lastByte p es) := by
  simp only [lastByte, lastWrite, stampWrites, List.filter_append, List.filter_map, List.getLast?_append, List.getLast?_map]
  cases hlast : (ws.filter fun w => w.1 = p).getLast? <;> simp [Function.comp_def, hlast]

/-- An operation on the registers `r` emits what it assigns: a port with no entry is a register that keeps its byte (R11). -/
def Tells (r : Regs) (e : Effect) : Prop :=
  ∀ p, (lastWrite p e.writes).or (some (portByte p r)) = some (portByte p e.regs)

theorem tells_of_unwritten (hseg : e.regs.seg = r.seg) (hsel : e.regs.sel = r.sel) (hw : e.writes = []) : Tells r e := by
  intro p
  cases p <;> simp [lastWrite, portByte, hw, hseg, hsel]

theorem tells_faultEffect (code : FaultCode) : Tells r (faultEffect code r) := fun p => by cases p <;> rfl

theorem tells_cycleEffect : Tells r (cycleEffect c t inp r) := by
  cases hst : r.state with
  | idle =>
    rw [cycleEffect_idle hst, idleEffect]
    split
    · split
      · exact tells_faultEffect _
      · exact tells_of_unwritten rfl rfl rfl
    · exact tells_of_unwritten rfl rfl rfl
  | select => rw [cycleEffect_select hst]; intro p; cases p <;> rfl
  | write => rw [cycleEffect_write hst]; intro p; cases p <;> rfl
  | hold =>
    rw [cycleEffect_hold hst, holdEffect]
    split <;> exact tells_of_unwritten rfl rfl rfl
  | advance => rw [cycleEffect_advance hst]; intro p; cases p <;> rfl
  | rsv5 => rw [cycleEffect_reserved (.inl hst)]; exact tells_faultEffect _
  | rsv6 => rw [cycleEffect_reserved (.inr hst)]; exact tells_faultEffect _
  | fault => rw [cycleEffect_fault hst]; exact tells_of_unwritten rfl rfl rfl

/-- The trace when `s` has performed its cycle: the bytes of the cycle are stamped with its number, and the next begins (R12). -/
theorem TraceOk.extend {s t : State} {ws : List (Port × Byte)} (h : TraceOk s)
    (hcycle : t.cycle = s.cycle + 1) (htrace : t.trace = s.trace ++ stampWrites s.cycle ws)
    (htells : ∀ r, t.regs = some r → ∀ p, (lastWrite p ws).or (lastByte p s.trace) = some (portByte p r)) : TraceOk t := by
  refine ⟨?_, ?_, fun r hr => ?_⟩
  · rw [htrace, hcycle]
    intro e he
    rcases List.mem_append.mp he with hold | hnew
    · exact (h.past e hold).trans (Nat.lt_succ_self _)
    · exact (cycle_of_mem_stampWrites hnew).trans_lt (Nat.lt_succ_self _)
  · rw [htrace, List.pairwise_append]
    refine ⟨h.ordered, List.pairwise_of_forall_mem_list fun e he f hf => ?_, fun e he f hf => ?_⟩
    · rw [cycle_of_mem_stampWrites he, cycle_of_mem_stampWrites hf]
    · rw [cycle_of_mem_stampWrites hf]
      exact (h.past e he).le
  · rw [htrace, lastByte_append_stampWrites, lastByte_append_stampWrites]
    exact ⟨htells r hr .seg, htells r hr .sel⟩

/-- RESET emits both ports, so nothing is asked of the registers before it (R119). -/
theorem TraceOk.reset (h : TraceOk s) : TraceOk (endCycle (commit resetEffect s)) := by
  refine h.extend rfl rfl fun u hu p => ?_
  obtain rfl : resetRegs = u := Option.some.inj hu
  cases p <;> rfl

theorem TraceOk.cycle (h : TraceOk s) (hr : s.regs = some r) {w : BitVec 18} : TraceOk (afterCycle w r s) := by
  refine h.extend rfl rfl fun u hu p => ?_
  obtain rfl := Option.some.inj hu
  obtain ⟨hseg, hsel⟩ := h.tellsRegisters r hr
  have hbefore : lastByte p s.trace = some (portByte p r) := by
    cases p
    · exact hseg
    · exact hsel
  rw [hbefore]
  exact tells_cycleEffect p

/-- Settles O31: RESET and a cycle extend the trace; a lookup changes no field that it is about, and a loss of power leaves no
registers to tell. -/
theorem stepKeepsTraceInvariant : Obligations.StepKeepsTraceInvariant := by
  intro s t h hstep
  obtain ⟨w, -, -, rfl⟩ | ⟨w, r, -, -, hr, rfl⟩ | ⟨d, p, -, -, rfl⟩ | ⟨-, rfl⟩ := step_cases hstep
  · have hsampled : TraceOk (sampleInputs w (dropRequest s)) := ⟨h.past, h.ordered, h.tellsRegisters⟩
    exact hsampled.reset
  · exact h.cycle hr
  · exact ⟨h.past, h.ordered, h.tellsRegisters⟩
  · exact ⟨h.past, h.ordered, nofun⟩

/-- Settles O30: the trace of a block just powered up is empty, and RESET extends it. -/
theorem resetStateMeetsTraceInvariant : Obligations.ResetStateMeetsTraceInvariant := by
  intro c
  have hpowerUp : TraceOk (State.powerUp c) := ⟨nofun, .nil, nofun⟩
  exact hpowerUp.reset

end Sys2Proof.Machine
end

section
/-! PROOFS. What a cycle reads of its inputs (R39, R83, R125) and does to PEND (R21), and the ports that it writes (R43). -/

namespace Sys2Proof.Machine

variable {c : Config} {t : Nat} {inp : Inputs} {s : State} {r : Regs} {b : Bool} {v v' : Value} {w : BitVec 18}

/-- In a running pass the state's operation reads no input and leaves PEND alone, so the cycle is that operation with PEND set by a
`start` (R83). -/
theorem cycleEffect_inPass (h : inPass r.state = true) (inp' : Inputs) :
    cycleEffect c t inp r =
      { stateEffect c t inp' r with regs := { (stateEffect c t inp' r).regs with pend := r.pend || inp.start } } := by
  cases hst : r.state with
  | idle => simp [hst, inPass] at h
  | select => simp [cycleEffect_select hst, stateEffect, hst, selectEffect]
  | write => simp [cycleEffect_write hst, stateEffect, hst, writeEffect]
  | hold =>
    simp only [cycleEffect_hold hst, stateEffect, hst, holdEffect]
    split <;> rfl
  | advance => simp [cycleEffect_advance hst, stateEffect, hst, advanceEffect]
  | rsv5 => simp [hst, inPass] at h
  | rsv6 => simp [hst, inPass] at h
  | fault => simp [hst, inPass] at h

theorem pend_cycleEffect_inPass (h : inPass r.state = true) :
    (cycleEffect c t inp r).regs.pend = (r.pend || inp.start) := by
  rw [cycleEffect_inPass h inp]

/-- A request in IDLE is served or faults, and without one PEND was 0 (R78). -/
theorem pend_idleEffect : (idleEffect inp r).regs.pend = false := by
  unfold idleEffect
  split
  · split <;> rfl
  next hnone => exact (Bool.or_eq_false_iff.mp (Bool.eq_false_iff.mpr hnone)).2

/-- Settles O24: RESET and the three kinds of cycle: in a running pass PEND is latched, in IDLE and on a fault entry it ends at 0,
and FAULT assigns nothing. -/
theorem pendIsSetAndClearedByRule : Obligations.PendIsSetAndClearedByRule := by
  intro s t r u w rest hs hscript hstep hu
  have hreq : (nextRequest s).1 = .stim w := congrArg Prod.fst (nextRequest_cons hscript)
  refine ⟨fun hrst => ?_, fun hrst => ?_⟩
  · obtain rfl := Host.Outcome.next.inj ((step_reset hreq hrst).symm.trans hstep)
    obtain rfl := Option.some.inj hu
    rfl
  · obtain rfl := Host.Outcome.next.inj ((step_cycle_some hreq hrst hs).symm.trans hstep)
    obtain rfl := Option.some.inj hu
    refine ⟨fun hin => pend_cycleEffect_inPass (inPass_eq_true hin), ?_, fun hfault => ?_⟩
    · rintro (hst | hrsv)
      · rw [cycleEffect_idle hst]; exact pend_idleEffect
      · rw [cycleEffect_reserved hrsv]; rfl
    · rw [cycleEffect_fault hfault]

/-- Outside IDLE, and in IDLE without a request, a cycle does not read `value` (R39). -/
theorem cycleEffect_value (h : r.state = .idle → b = false ∧ r.pend = false) :
    cycleEffect c t ⟨b, v⟩ r = cycleEffect c t ⟨b, v'⟩ r := by
  cases hst : r.state with
  | idle =>
    obtain ⟨rfl, hpend⟩ := h hst
    rw [cycleEffect_idle hst, cycleEffect_idle hst, idleEffect_waits rfl hpend, idleEffect_waits rfl hpend]
  | select => rw [cycleEffect_select hst, cycleEffect_select hst]
  | write => rw [cycleEffect_write hst, cycleEffect_write hst]
  | hold => rw [cycleEffect_hold hst, cycleEffect_hold hst]
  | advance => rw [cycleEffect_advance hst, cycleEffect_advance hst]
  | rsv5 => rw [cycleEffect_reserved (.inl hst), cycleEffect_reserved (.inl hst)]
  | rsv6 => rw [cycleEffect_reserved (.inr hst), cycleEffect_reserved (.inr hst)]
  | fault => rw [cycleEffect_fault hst, cycleEffect_fault hst]

/-- Two cycles that differ in a `value` not read end in states that differ in its level alone. -/
theorem runCycle_value (hs : s.regs = some r) (h : r.state = .idle → b = false ∧ r.pend = false) :
    ∃ t, runCycle b v s = .next t ∧ runCycle b v' s = .next { t with inputs := ⟨b, v'⟩ } := by
  refine ⟨_, runCycle_some b v hs, ?_⟩
  rw [runCycle_some b v' hs, cycleEffect_value (v' := v) h]
  rfl

/-- Settles O25: both clauses are the cycles whose register transfer does not depend on `value`. -/
theorem valueIsReadOnlyAtPassStart : Obligations.ValueIsReadOnlyAtPassStart := by
  intro s r v v' hs
  refine ⟨fun hst b => ?_, fun _ hpend => runCycle_value hs fun _ => ⟨rfl, hpend⟩⟩
  cases b <;> exact runCycle_value hs fun hidle => absurd hidle hst

theorem encode_refresh (v : Value) : encode (.refresh v) = .stim (BitVec.ofNat 18 (0x10000 + v.toNat)) := by
  rw [encode, stimWord_eq_ofNat]
  simp

/-- Settles O11: IDLE has one equation of the register transfer for each sign; in a running pass REFRESH and NOP run one operation
and differ in the latch. -/
theorem refreshRequestsAPass : Obligations.RefreshRequestsAPass := by
  refine ⟨encode_refresh, fun s r v hs =>
    ⟨_, _, runCycle_some true v hs, rfl, rfl, rfl, rfl, rfl, ?_, ?_, fun hin => ?_, fun hfault => ?_⟩⟩
  · intro hidle hv
    rw [cycleEffect_idle_starts (inp := ⟨true, v⟩) hidle rfl hv]
    exact ⟨rfl, List.append_nil _, rfl⟩
  · intro hidle hv
    rw [cycleEffect_idle_faults hidle (.inl rfl) hv]
    exact ⟨rfl, rfl⟩
  · refine ⟨_, _, runCycle_some false v hs, rfl, ?_⟩
    rw [cycleEffect_inPass (inPass_eq_true hin) ⟨false, v⟩, cycleEffect_inPass (inPass_eq_true hin) ⟨false, v⟩]
    simp
  · rw [cycleEffect_fault hfault]
    exact ⟨rfl, List.append_nil _⟩

/-- IDLE emits nothing, or is the fault entry (R78, R109). -/
theorem idleEffect_writes :
    (idleEffect inp r).writes = [] ∨
      (idleEffect inp r).writes = [(.sel, selNone), (.seg, blankByte)] ∧ (idleEffect inp r).regs.state = .fault := by
  unfold idleEffect
  split
  · split
    · exact .inr ⟨rfl, rfl⟩
    · exact .inl rfl
  · exact .inl rfl

/-- Settles O32: the entries are the bytes of RESET's effect or of the cycle's, stamped with the cycle; each state's effect lists
its ports. -/
theorem oneWritePerCycleOfAPass : Obligations.OneWritePerCycleOfAPass := by
  intro s t r w rest hs hscript hstep
  have hreq : (nextRequest s).1 = .stim w := congrArg Prod.fst (nextRequest_cons hscript)
  cases hrst : stimRst w with
  | true =>
    obtain rfl := Host.Outcome.next.inj ((step_reset hreq hrst).symm.trans hstep)
    exact ⟨_, rfl, fun _ => cycle_of_mem_stampWrites, fun _ => rfl, fun hfalse => absurd (hrst.symm.trans hfalse) (by decide)⟩
  | false =>
    obtain rfl := Host.Outcome.next.inj ((step_cycle_some hreq hrst hs).symm.trans hstep)
    refine ⟨_, rfl, fun _ => cycle_of_mem_stampWrites, fun htrue => absurd (hrst.symm.trans htrue) (by decide),
      fun _ => ⟨?_, ?_, ?_, ?_, ?_⟩⟩
    · rintro (hst | hst)
      · rw [cycleEffect_select hst]; rfl
      · rw [cycleEffect_advance hst]; rfl
    · intro hst
      rw [cycleEffect_write hst]; rfl
    · rintro (hst | hst)
      · rw [cycleEffect_hold hst, holdEffect]
        split <;> rfl
      · rw [cycleEffect_fault hst]; rfl
    · intro hst
      have heffect := cycleEffect_idle (c := s.cfg) (t := s.cycle) (inp := ⟨stimStart w, stimValue w⟩) hst
      rw [heffect]
      rcases idleEffect_writes (inp := ⟨stimStart w, stimValue w⟩) (r := r) with hnone | ⟨hboth, hfault⟩
      · rw [hnone]; exact .inl rfl
      · rw [hboth]; exact .inr ⟨rfl, _, rfl, heffect ▸ hfault⟩
    · intro hst
      rw [cycleEffect_reserved hst]; rfl

end Sys2Proof.Machine
end

section
/-! PROOFS. The lookups of the stand-alone encoder (R50, R62, R63), and words written out (R47, R49, R50). -/

namespace Sys2Proof.Machine

variable {s : State} {d : BitVec 4} {i : Instr}

/-- The instruction that a LUT digit selects is the lookup of that digit (R62). -/
theorem exec_of_decodeLut (h : decodeLut d = .ok i) (s : State) : exec i s = lookupDigit d s := by
  have hexec := exec_decodeLut d s
  rwa [h] at hexec

theorem lookupDigit_some {q : Byte} (h : encLookup d = some q) : lookupDigit d s = .next { s with encOut := some q } := by
  simp [lookupDigit, h]

theorem lookupDigit_none (h : encLookup d = none) : lookupDigit d s = .refused .encRange := by
  simp [lookupDigit, h]

/-- The digits with an instruction are those with an entry in the table (R50, R62). -/
theorem decodeLut_of_legal {d : BitVec 4} (h : d.toNat ≤ 9) : ∃ i, decodeLut d = .ok i := by
  obtain ⟨n, hn⟩ := d
  have hn' : n ≤ 9 := h
  interval_cases n <;> exact ⟨_, rfl⟩

theorem decodeLut_of_illegal {d : BitVec 4} (h : 10 ≤ d.toNat) : decodeLut d = .error (.encRange d) := by
  obtain ⟨n, hn⟩ := d
  have hn' : 10 ≤ n := h
  interval_cases n <;> rfl

/-- Settles O3: the legal digits are those with an entry in the table, and the instruction of one is its lookup. -/
theorem lutDigitSelectsOrIsRefused : Obligations.LutDigitSelectsOrIsRefused := by
  constructor
  · intro d hd
    obtain ⟨i, hi⟩ := decodeLut_of_legal hd
    obtain ⟨q, hq⟩ : ∃ q, encLookup d = some q := by
      rw [← Option.ne_none_iff_exists', Ne, encLookup_eq_none_iff]
      omega
    exact ⟨i, hi, fun s => ⟨q, hq, (exec_of_decodeLut hi s).trans (lookupDigit_some hq)⟩⟩
  · intro d hd
    refine ⟨decodeLut_of_illegal hd, fun s rest hscript => ?_⟩
    have hreq : (nextRequest s).1 = .lut d := congrArg Prod.fst (nextRequest_cons hscript)
    rw [step_lut hreq, lookupDigit_none (encLookup_eq_none_iff.mpr hd)]

/-- Settles O22: each row looks up its own digit, and the ten entries are read off the table. -/
theorem encRowsGiveTheirTableByte : Obligations.EncRowsGiveTheirTableByte :=
  fun _ => ⟨rfl, rfl, rfl, rfl, rfl, rfl, rfl, rfl, rfl, rfl⟩

/-- Settles O1: twelve closed words to decode. -/
theorem writtenOutWordsDecode : Obligations.WrittenOutWordsDecode := by
  unfold Obligations.WrittenOutWordsDecode
  decide

end Sys2Proof.Machine
end

section
/-! PROOFS. The step, request by request: what it runs (R46, R47), what it needs before the first reset (R33), and that it neither
changes the configuration (R120) nor asks for the platform (R7, R36). -/

namespace Sys2Proof.Machine

variable {s : State}

/-- Settles O7: the three requests that a step can find, each with the instruction it decodes to. -/
theorem stepRunsDecodedInstruction : Obligations.StepRunsDecodedInstruction := by
  refine ⟨fun s w rest i hscript hi => ?_, fun s d rest i hscript hi => ?_, fun s i hscript hi => ?_⟩
  · obtain rfl : decodeStim w = i := Except.ok.inj hi
    rw [step_stim (congrArg Prod.fst (nextRequest_cons hscript)), sampleInputs_dropRequest hscript]
    rfl
  · have hreq : (nextRequest s).1 = .lut d := congrArg Prod.fst (nextRequest_cons hscript)
    rw [step_lut hreq, ← exec_of_decodeLut hi, dropRequest, nextRequest_cons hscript]
  · obtain rfl : decodeStim (Config.hostStim s.cycle) = i := Except.ok.inj hi
    have hnext : nextRequest s = (.stim (Config.hostStim s.cycle), []) := by simp [nextRequest, hscript]
    rw [step_stim (congrArg Prod.fst hnext), dropRequest, hnext, ← hscript]
    rfl

/-- Settles O33: none of the four things a step can do assigns the configuration. -/
theorem noStepChangesTheParameters : Obligations.NoStepChangesTheParameters := by
  intro s t hstep
  obtain ⟨w, -, -, rfl⟩ | ⟨w, r, -, -, -, rfl⟩ | ⟨d, q, -, -, rfl⟩ | ⟨-, rfl⟩ := step_cases hstep <;> rfl

/-- A cycle with `rst = 0` before the first reset (R33). -/
theorem step_cycle_none {w : BitVec 18} (hreq : (nextRequest s).1 = .stim w) (hrst : stimRst w = false) (hs : s.regs = none) :
    step s = .fault .noValueBeforeReset :=
  (step_cycle hreq hrst).trans (runCycle_none _ _ hs)

/-- Settles O34: the request read is the same, and what it runs uses the configuration for `H` and HT_WIDTH alone. -/
theorem stepIgnoresPlatformParameters : Obligations.StepIgnoresPlatformParameters := by
  intro p s
  have hnext : nextRequest (withPlatform p s) = nextRequest s := rfl
  cases hreq : (nextRequest s).1 with
  | stim w =>
    have hreq' : (nextRequest (withPlatform p s)).1 = .stim w := hreq
    cases hrst : stimRst w with
    | true => rw [step_reset hreq hrst, step_reset hreq' hrst]; rfl
    | false =>
      cases hs : s.regs with
      | none =>
        rw [step_cycle_none hreq hrst hs, step_cycle_none hreq' hrst hs]
        rfl
      | some r =>
        rw [step_cycle_some hreq hrst hs, step_cycle_some hreq' hrst hs]
        rfl
  | lut d =>
    have hreq' : (nextRequest (withPlatform p s)).1 = .lut d := hreq
    rw [step_lut hreq, step_lut hreq']
    cases hd : encLookup d with
    | none => rw [lookupDigit_none hd, lookupDigit_none hd]; rfl
    | some q => rw [lookupDigit_some hd, lookupDigit_some hd]; rfl
  | powerCycle =>
    simp only [step, hnext, hreq]
    rfl

theorem exec_microInstr_none (hs : s.regs = none) (st : SeqState) :
    exec (microInstr st) s = .fault .noValueBeforeReset := by
  cases st <;> exact onRegs_none hs

/-- Settles O12: without registers a cycle and every operation fault, and RESET, which reads none, completes. -/
theorem nothingRunsBeforeFirstReset : Obligations.NothingRunsBeforeFirstReset := by
  refine ⟨fun _ => rfl, fun s hs => ⟨?_, fun w rest hscript hrst => ?_, fun w rest hscript hrst => ?_, fun v => ?_,
    exec_microInstr_none hs⟩⟩
  · simp [readOutputs, hs]
  · exact step_cycle_none (congrArg Prod.fst (nextRequest_cons hscript)) hrst hs
  · exact ⟨_, _, step_reset (congrArg Prod.fst (nextRequest_cons hscript)) hrst, rfl⟩
  · exact ⟨runCycle_none false v hs, runCycle_none true v hs⟩

/-- Settles O13: RESET from power-up, evaluated; `State.reset` takes the configuration as built. -/
theorem resetOfPowerUpIsResetState : Obligations.ResetOfPowerUpIsResetState :=
  ⟨fun c => exec_reset (State.powerUp c), Config.asBuilt, rfl⟩

end Sys2Proof.Machine
end

section
/-! PROOFS. The operation of HOLD (R81). -/

namespace Sys2Proof.Machine

variable {r : Regs}

theorem holdEffect_zero (h : r.ht = 0) : holdEffect r = ⟨{ r with state := .advance }, []⟩ :=
  if_pos h

theorem holdEffect_succ {n : Nat} (h : r.ht = n + 1) : holdEffect r = ⟨{ r with ht := n }, []⟩ := by
  simp [holdEffect, h]

theorem holdEffect_writes (r : Regs) : (holdEffect r).writes = [] := by
  unfold holdEffect
  split <;> rfl

/-- Settles O17: HOLD emits nothing in either case, and its two cases are HT at 0 and above. -/
theorem holdCountsDown : Obligations.HoldCountsDown := by
  refine ⟨rfl, fun s r hs => ⟨_, onRegs_some hs, sameSurroundings_commit, ?_, fun hzero => ?_, fun n hsucc => ?_⟩⟩
  · rw [commit_trace, holdEffect_writes]
    exact List.append_nil _
  · rw [commit_regs, holdEffect_zero hzero]
  · rw [commit_regs, holdEffect_succ hsucc]

end Sys2Proof.Machine
end

section
/-! PROOFS. Operands and digits (R55, R69, R77), and the words of a script's lines (R58). -/

namespace Sys2Proof.Machine

/-- Settles O45: the model's digits are the library's, whose equation this is, and a slot of a pass finds them one by one. -/
theorem digitsFollowTheirEquations : Obligations.DigitsFollowTheirEquations := by
  refine ⟨rfl, fun v hv => ?_, fun v i hv => ⟨extStep_valid_workingValue hv, ?_⟩⟩
  · rw [digits_eq_natDigits, digits_eq_natDigits, Nat.digits_def' (by decide) hv]
  · rw [extStep_digit_workingValue hv]
    rfl

/-- Settles O47: the working value of slot `i` fits W, so PATTERN reads it exactly. -/
theorem slotPatternMatchesClosedForm : Obligations.SlotPatternMatchesClosedForm :=
  fun _ _ => slotPattern_workingValue

theorem encLookup_digit : ∀ d : Fin 10, encLookup (BitVec.ofNat 4 d) = some (encDigit d) := by decide

/-- Settles O55: `H - 1` is below `2^HT_WIDTH`, and W mod 10 is one of the ten digits. -/
theorem operandsFitTheirFields : Obligations.OperandsFitTheirFields :=
  ⟨fun c => ⟨holdLoad_eq c, holdLoad_lt c⟩, fun w => encLookup_digit (lowDigit w.toNat)⟩

/-- Settles O53: each word is the number its three fields make. -/
theorem scriptLinesEncodeToWords : Obligations.ScriptLinesEncodeToWords := by
  refine ⟨fun h bus v => ?_, fun h bus l ls => rfl, fun h ls => rfl⟩
  simp [assembleLine, stimWord_eq_ofNat]

end Sys2Proof.Machine
end

section
/-! PROOFS. A pass cycle by cycle (R85 to R87, R124): at its WRITEs, in the cycles that show a slot, and busy in all. -/

namespace Sys2Proof.Machine

variable {c : Config} {s : State} {r : Regs} {v t i j k : Nat} {w : BitVec 18} {ws : List (BitVec 18)} {rest : List Request}

/-- The same start, with fewer of the host's words looked at. -/
theorem StartsPass.take (h : StartsPass s r v ws rest) (k : Nat) :
    StartsPass s r v (ws.take k) ((ws.drop k).map Request.stim ++ rest) := by
  obtain ⟨hregs, hidle, hv, hrst, w₀, hscript, hw₀⟩ := h
  refine ⟨hregs, hidle, hv, fun w hw => hrst w (List.mem_of_mem_take hw), w₀, ?_, hw₀⟩
  rw [hscript, ← List.append_assoc, ← List.map_append, List.take_append_drop]

/-- The pass in front of slot `i`: the registers are the closed form, and the words from there on are still to come. -/
theorem StartsPass.ran_slots (h : StartsPass s r v ws rest) (hlen : ws.length = 4 * s.cfg.holdCycles + 9) (hi : i ≤ 4) :
    ∃ t p, stepN (i * (s.cfg.holdCycles + 2) + 2) s = .next t ∧ t.regs = some (passRegs v i p r) ∧
      t.cfg = s.cfg ∧ t.cycle = s.cycle + (i * (s.cfg.holdCycles + 2) + 2) ∧
      t.script = (ws.drop (i * (s.cfg.holdCycles + 2) + 1)).map Request.stim ++ rest := by
  have hfits : i * (s.cfg.holdCycles + 2) ≤ 4 * (s.cfg.holdCycles + 2) := Nat.mul_le_mul_right _ hi
  obtain ⟨t, hrun, ht⟩ := (h.take _).ran hi (List.length_take_of_le (by omega))
  exact ⟨t, _, hrun, ht.regs, ht.cfg, ht.cycle, ht.script⟩

/-- Settles O37: the registers in front of slot `i`, in closed form. -/
theorem slotsWriteAtTheirCycles : Obligations.SlotsWriteAtTheirCycles := by
  intro s r v ws rest hpass hlen i hi
  obtain ⟨t, p, hrun, hregs, -, hcycle, -⟩ := hpass.ran_slots hlen hi.le
  obtain ⟨-, -, hv, -⟩ := hpass
  rw [Nat.add_comm] at hrun hcycle
  exact ⟨t, _, hrun, hregs, by omega, if_pos hi, slotIndex_passRegs hi, toNat_workingValue hv, rfl, rfl⟩

/-- In the `H + 1` cycles after its WRITE a slot shows its pattern at the position that was selected (R81, R86). -/
theorem runCycles_write_shows (hwrite : r.state = .write) (hlen : ws.length ≤ c.holdCycles) :
    (runCycles c t r (w :: ws)).1.sel = r.sel ∧
      (runCycles c t r (w :: ws)).1.seg = slotPattern r.w (slotIndex r.slot) := by
  have hload := holdLoad_eq c
  have hpos := c.hold_pos
  by_cases hlast : ws.length = c.holdCycles
  · have hht : ws.length = holdLoad c + 1 := by omega
    rw [runCycles_cons (cycleEffect_write hwrite) (runCycles_hold rfl hht)]
    exact ⟨rfl, rfl⟩
  · have hht : ws.length ≤ holdLoad c := by omega
    rw [runCycles_cons (cycleEffect_write hwrite) (runCycles_hold_countdown rfl hht)]
    exact ⟨rfl, rfl⟩

/-- Settles O38: from the WRITE of slot `i`, `j` cycles of the `H` of HOLD and the one of ADVANCE. -/
theorem positionShowsItsPattern : Obligations.PositionShowsItsPattern := by
  intro s r v ws rest hpass hlen i hi j hj
  obtain ⟨t, p, hrun, hregs, hcfg, -, hscript⟩ := hpass.ran_slots hlen hi.le
  obtain ⟨-, -, hv, hrst, -⟩ := hpass
  have hrst' : ∀ w ∈ ws.drop (i * (s.cfg.holdCycles + 2) + 1), stimRst w = false := fun w hw =>
    hrst w (List.mem_of_mem_drop hw)
  have hleft : j + 1 ≤ (ws.drop (i * (s.cfg.holdCycles + 2) + 1)).length := by
    have hslots : i * (s.cfg.holdCycles + 2) ≤ 3 * (s.cfg.holdCycles + 2) := Nat.mul_le_mul_right _ (by omega)
    rw [List.length_drop]
    omega
  obtain ⟨u, hrun', hu⟩ := stepN_take hleft hregs hscript hrst'
  obtain ⟨w, ws', hws'⟩ := List.exists_cons_of_length_eq_add_one (List.length_take_of_le hleft)
  have hj' : ws'.length = j :=
    Nat.succ.inj ((congrArg List.length hws').symm.trans (List.length_take_of_le hleft))
  have hwrite : (passRegs v i p r).state = .write := if_pos hi
  have hcycles : 3 + i * (s.cfg.holdCycles + 2) + j = i * (s.cfg.holdCycles + 2) + 2 + (j + 1) := by omega
  rw [hws', hcfg] at hu
  obtain ⟨hsel, hseg⟩ := runCycles_write_shows (c := s.cfg) (t := t.cycle) (w := w) hwrite (hj'.trans_le hj)
  refine ⟨u, _, ?_, hu.regs, hsel, hseg.trans (slotPattern_passRegs hv hi), fun hlt => ?_, fun heq => ?_⟩
  · rw [hcycles, stepN_add _ _ s hrun, hrun']
  · exact (runCycles_write_hold hwrite (hj'.trans_lt hlt)).1
  · exact runCycles_write_advance hwrite (hj'.trans heq)

/-- One cycle after its start a pass is in SELECT (R78). -/
theorem StartsPass.selects (h : StartsPass s r v ws rest) :
    ∃ t u, step s = .next t ∧ t.regs = some u ∧ u.state = .select := by
  obtain ⟨hregs, hidle, hv, -, w₀, hscript, hrst₀, hreq, rfl⟩ := h
  refine ⟨_, _, step_cycle_some (congrArg Prod.fst (nextRequest_cons hscript)) hrst₀ hregs, rfl, ?_⟩
  rw [cycleEffect_idle_starts hidle (by simpa using hreq) hv]

/-- In each of the `4H + 9` cycles after its start a pass is in one of its four states: SELECT, then slot by slot WRITE, the cycles
of HOLD, and ADVANCE (R83). -/
theorem StartsPass.ran_inPass (h : StartsPass s r v ws rest) (hlen : ws.length = 4 * s.cfg.holdCycles + 9)
    (hk : k < 4 * s.cfg.holdCycles + 9) :
    ∃ t u, stepN (k + 1) s = .next t ∧ t.regs = some u ∧ inPass u.state = true := by
  by_cases hfirst : k = 0
  · obtain ⟨t, u, hstep, hu, hst⟩ := h.selects
    rw [hfirst]
    exact ⟨t, u, stepN_succ hstep, hu, by rw [hst]; rfl⟩
  · obtain ⟨i, m, hm, rfl⟩ : ∃ i m, m < s.cfg.holdCycles + 2 ∧ k = 1 + i * (s.cfg.holdCycles + 2) + m := by
      refine ⟨(k - 1) / (s.cfg.holdCycles + 2), (k - 1) % (s.cfg.holdCycles + 2), Nat.mod_lt _ (by omega), ?_⟩
      have hdiv := Nat.div_add_mod' (k - 1) (s.cfg.holdCycles + 2)
      omega
    have hi : i < 4 := by
      by_contra hge
      have : 4 * (s.cfg.holdCycles + 2) ≤ i * (s.cfg.holdCycles + 2) := Nat.mul_le_mul_right _ (by omega)
      omega
    cases m with
    | zero =>
      obtain ⟨t, u, hrun, hu, -, hst, -⟩ := slotsWriteAtTheirCycles s r v ws rest h hlen i hi
      refine ⟨t, u, ?_, hu, by rw [hst]; rfl⟩
      convert hrun using 2
      omega
    | succ j =>
      obtain ⟨t, u, hrun, hu, -, -, hhold, hadvance⟩ := positionShowsItsPattern s r v ws rest h hlen i hi j (by omega)
      refine ⟨t, u, ?_, hu, inPass_eq_true ?_⟩
      · convert hrun using 2
        omega
      · rcases Nat.lt_or_ge j s.cfg.holdCycles with hlt | hge
        · exact .inr (.inr (.inl (hhold hlt)))
        · exact .inr (.inr (.inr (hadvance (by omega))))

theorem ne_of_inPass {st : SeqState} (h : inPass st = true) : st ≠ .idle ∧ st ≠ .fault := by
  constructor <;> rintro rfl <;> cases h

/-- Settles O39: the states of a running pass are busy and none is FAULT; the run of the whole pass ends in IDLE. -/
theorem passIsBusyFor4HPlus9Cycles : Obligations.PassIsBusyFor4HPlus9Cycles := by
  intro s r v ws rest hpass hlen
  refine ⟨fun k hlow hhigh => ?_, ?_⟩
  · obtain ⟨k, rfl⟩ := Nat.exists_eq_add_of_le' hlow
    obtain ⟨t, u, hrun, hu, hin⟩ := hpass.ran_inPass hlen hhigh
    obtain ⟨hidle, hfault⟩ := ne_of_inPass hin
    exact ⟨t, u, hrun, hu, busyFlag_eq_true.mpr hidle, Bool.eq_false_iff.mpr (faultFlag_eq_true.not.mpr hfault)⟩
  · obtain ⟨t, hrun, ht⟩ := hpass.ran_whole hlen
    exact ⟨t, _, hrun, ht.regs, rfl, ht.cycle, ht.script⟩

end Sys2Proof.Machine
end

section
/-! PROOFS. The script line PASS (R59). -/

namespace Sys2Proof.Machine

theorem assembleFrom_replicate_nop (h n : Nat) (bus : Value) :
    assembleFrom h bus (List.replicate n .nop) = List.replicate n (stimWord false false bus) := by
  induction n with
  | zero => rfl
  | succ n ih => exact congrArg (_ :: ·) ih

/-- The words of `PASS v` (R59). -/
theorem assembleFrom_pass (h v : Nat) (bus : Value) :
    assembleFrom h bus [.pass v] = stimWord false true (BitVec.ofNat 16 v) ::
      List.replicate (4 * h + 9) (stimWord false false (BitVec.ofNat 16 v)) :=
  List.append_nil _

/-- Settles O54: the two expansions line by line; the words of PASS start a pass that no further `start` comes to. -/
theorem passCommandRunsAWholePass : Obligations.PassCommandRunsAWholePass := by
  refine ⟨fun h n bus => ?_, fun h v bus => ?_, fun s r v bus rest hs hidle hpend hv hscript => ?_⟩
  · rw [assembleFrom_replicate_nop]
    exact List.append_nil _
  · rfl
  · rw [assembleFrom_pass] at hscript
    have hvalue : (stimValue (stimWord false true (BitVec.ofNat 16 v))).toNat = v := by
      rw [stimValue_stimWord, BitVec.toNat_ofNat, Nat.mod_eq_of_lt (by omega)]
    have hpass : StartsPass s r v
        (List.replicate (4 * s.cfg.holdCycles + 9) (stimWord false false (BitVec.ofNat 16 v))) rest :=
      ⟨hs, hidle, hv, by simp, _, hscript, by simp, .inl (by simp), hvalue⟩
    obtain ⟨t, hrun, ht⟩ := hpass.ran_whole List.length_replicate
    exact ⟨t, _, hrun, ht.regs, rfl, by simp [passRegs], ht.script, ht.trace⟩

end Sys2Proof.Machine
end
